-- ==== Sys2Proof/Word.lean ====
section
/-! DEFINITION. Bytes, 32-bit words and byte vectors (00_scope.md R9). -/

namespace Sys2Proof

/-- A byte: an unsigned 8-bit value (R9). -/
abbrev Byte := BitVec 8

/-- A word of the register window and a command word (20_memory.md R52, 30_encoding.md R80). -/
abbrev Word := BitVec 32

/-- A byte vector: a finite sequence of bytes, index 0 first and most significant (R9). -/
abbrev ByteVec := List Byte

end Sys2Proof
end

