-- ==== Sys2Proof/Config.lean ====
section
/-! DEFINITION. The fixed sizes of the block and its OPEN parameters (00_scope.md R7, R8;
92_eei_decisions.md, "OPEN parameters, in one place"). The values the machine runs with are
`Sys2Proof.Machine.dke` in Machine/Cipher.lean. -/

namespace Sys2Proof

/-- `NVREG`, the number of vector registers (R8). -/
abbrev nvreg : Nat := 16

/-- `VCAP`, the capacity of a vector register in bytes (R8). -/
abbrev vcap : Nat := 32

/-- `PCAP`, the capacity of the payload buffer in bytes. DESIGN CHOICE (log 5): the OPEN parameter
at its default 256 (R8, D4). -/
abbrev pcap : Nat := 256

/-- The two readings of "top 2 bytes" in the base-key construction (43_key_construction.md R161). -/
inductive KsnModReading
  /-- The zeroed bytes are `ksn[0..1]`: `ksnMod = ksn[2..9]`. -/
  | a
  /-- The zeroed bytes are those of the 8-byte extract: `ksnMod = 00 00 ‖ ksn[4..9]`. -/
  | b
deriving DecidableEq, Repr

/-- The three functions of the cipher unit behind the port, key first (41_cipher_port.md R121).
That each answer depends on the request alone (R121 (a)) is what being a function says. -/
structure Cipher where
  /-- `DES_E`: an 8-byte key, an 8-byte block. -/
  desE : ByteVec → ByteVec → ByteVec
  /-- `TDES_CBC_E`: a 24-byte key, a whole number of 8-byte blocks. -/
  tdesCbcE : ByteVec → ByteVec → ByteVec
  /-- `TDES_CBC_D`: a 24-byte key, a whole number of 8-byte blocks. -/
  tdesCbcD : ByteVec → ByteVec → ByteVec

/-- What the engine's rules assume of the cipher unit (41_cipher_port.md R121 (b) and (c)). -/
structure Cipher.Lawful (c : Cipher) : Prop where
  desE_length : ∀ k b, k.length = 8 → b.length = 8 → (c.desE k b).length = 8
  tdesCbcE_length : ∀ k d, k.length = 24 → d.length % 8 = 0 → (c.tdesCbcE k d).length = d.length
  tdesCbcD_length : ∀ k d, k.length = 24 → d.length % 8 = 0 → (c.tdesCbcD k d).length = d.length
  tdesCbcD_tdesCbcE : ∀ k d, k.length = 24 → d.length % 8 = 0 → c.tdesCbcD k (c.tdesCbcE k d) = d

/-- The OPEN parameters a rule of the engine takes as an argument (92_eei_decisions.md). -/
structure Config where
  ksnModReading : KsnModReading
  cipherMayFail : Bool
  cipher : Cipher

end Sys2Proof
end

