-- ==== Sys2Proof/Syntax.lean ====
section
/-! DEFINITION. The commands of the block: one constructor for each row of spec/opcode_table.json
(30_encoding.md R81 to R83). -/

namespace Sys2Proof

/-- A vector register number, 0..15 (10_state.md R21). -/
abbrev VIdx := Fin nvreg

/-- The fill byte of `VPADL`: a choice between two (30_encoding.md R82). -/
inductive FillByte
  | x00
  | xFF
deriving DecidableEq, Repr

/-- The 18 commands (R83). Operands stand in the order of the assembler syntax (R86); the
immediates are plain numbers, whose encodable ranges `Instr.wf` states. -/
inductive Instr
  | zeroize
  | clrcnt
  | vand (vd va vb : VIdx)
  | vor (vd va vb : VIdx)
  | vxor (vd va vb : VIdx)
  | vsub (vd va : VIdx) (first last : Nat)
  | vcat (vd va vb : VIdx)
  | vpadl (vd va : VIdx) (length : Nat) (fill : FillByte)
  | vshr (vd va : VIdx) (n : Nat)
  | genipek (vd va vb : VIdx)
  | derive (vd va vb : VIdx)
  | bpekh (vd va vb : VIdx)
  | bpek (vd va vb : VIdx)
  | pekv (vd va : VIdx)
  | peknv (vd va : VIdx)
  | encd (va vb : VIdx)
  | decd (va vb : VIdx)
  | dectrk (va vb : VIdx)
deriving DecidableEq, Repr

end Sys2Proof
end

