-- ==== Sys2Proof/WellFormed.lean ====
section
/-! DEFINITION. Which instructions the encoding can express: the ranges of the unsigned immediates
(30_encoding.md R82). Register numbers are in range by their type. -/

namespace Sys2Proof

/-- The immediates fit their fields (R82): `from`, `to` and `length` have 6 bits, `n` has 12. -/
def Instr.wf : Instr → Bool
  | .vsub _ _ first last => first < 64 && last < 64
  | .vpadl _ _ length _ => length < 64
  | .vshr _ _ n => n < 4096
  | .zeroize | .clrcnt => true
  | .vand _ _ _ | .vor _ _ _ | .vxor _ _ _ | .vcat _ _ _ => true
  | .genipek _ _ _ | .derive _ _ _ | .bpekh _ _ _ | .bpek _ _ _ => true
  | .pekv _ _ | .peknv _ _ => true
  | .encd _ _ | .decd _ _ | .dectrk _ _ => true

end Sys2Proof
end

