-- ==== Sys2Proof/Decode.lean ====
section
/-! DEFINITION. Decoding a 32-bit command word, total, rejecting by name (30_encoding.md R80 to
R85), and the encoder (R86). The hardware answers every rejection with the one abort
`IllegalCommand`; the names only say which test of R84 failed (log 16). -/

namespace Sys2Proof

/-- The fields of the one format (R80). -/
structure Fields where
  op : BitVec 8
  vd : BitVec 4
  va : BitVec 4
  vb : BitVec 4
  imm : BitVec 12
deriving DecidableEq, Repr

/-- Why a word is not well-formed (R84). -/
inductive DecodeError
  /-- `op` is none of the 18 values of R83. -/
  | unassignedOpcode (op : BitVec 8)
  /-- A field the operand form does not use is not zero (R81). -/
  | unusedFieldNonzero (op : BitVec 8)
  /-- An unused bit of the immediate is not zero (R82, `VPADL`). -/
  | unusedImmediateBit (op : BitVec 8)
deriving DecidableEq, Repr

/-- Cut a word into its fields (R80). -/
def fieldsOf (w : Word) : Fields where
  op := w.extractLsb' 24 8
  vd := w.extractLsb' 20 4
  va := w.extractLsb' 16 4
  vb := w.extractLsb' 12 4
  imm := w.extractLsb' 0 12

/-- The register number a 4-bit field names (R80). -/
def regOf (f : BitVec 4) : VIdx := ⟨f.toNat, f.isLt⟩

/-- Form `VVV`: `imm` must be zero (R81). -/
def decodeVVV (f : Fields) (mk : VIdx → VIdx → VIdx → Instr) : Except DecodeError Instr :=
  if f.imm = 0 then .ok (mk (regOf f.vd) (regOf f.va) (regOf f.vb))
  else .error (.unusedFieldNonzero f.op)

/-- Form `VV`: `vb` and `imm` must be zero (R81). -/
def decodeVV (f : Fields) (mk : VIdx → VIdx → Instr) : Except DecodeError Instr :=
  if f.vb = 0 ∧ f.imm = 0 then .ok (mk (regOf f.vd) (regOf f.va))
  else .error (.unusedFieldNonzero f.op)

/-- Form `VVI`: `vb` must be zero (R81). -/
def decodeVVI (f : Fields) (mk : VIdx → VIdx → BitVec 12 → Except DecodeError Instr) :
    Except DecodeError Instr :=
  if f.vb = 0 then mk (regOf f.vd) (regOf f.va) f.imm
  else .error (.unusedFieldNonzero f.op)

/-- Form `SVV`: `vd` and `imm` must be zero (R81). -/
def decodeSVV (f : Fields) (mk : VIdx → VIdx → Instr) : Except DecodeError Instr :=
  if f.vd = 0 ∧ f.imm = 0 then .ok (mk (regOf f.va) (regOf f.vb))
  else .error (.unusedFieldNonzero f.op)

/-- Form `Z`: every field but `op` must be zero (R81). -/
def decodeZ (f : Fields) (i : Instr) : Except DecodeError Instr :=
  if f.vd = 0 ∧ f.va = 0 ∧ f.vb = 0 ∧ f.imm = 0 then .ok i
  else .error (.unusedFieldNonzero f.op)

/-- The fill byte bit 8 of the immediate selects (R82). -/
def fillOf (imm : BitVec 12) : FillByte := if imm.getLsbD 8 then .xFF else .x00

/-- The immediates of `VSUB`: `from = imm[11:6]`, `to = imm[5:0]` (R82). -/
def decodeVsub (vd va : VIdx) (imm : BitVec 12) : Except DecodeError Instr :=
  .ok (.vsub vd va (imm.extractLsb' 6 6).toNat (imm.extractLsb' 0 6).toNat)

/-- The immediates of `VPADL`: `fill = imm[8]`, `length = imm[5:0]`, the other bits zero (R82). -/
def decodeVpadl (op : BitVec 8) (vd va : VIdx) (imm : BitVec 12) : Except DecodeError Instr :=
  if imm.extractLsb' 9 3 = 0 ∧ imm.extractLsb' 6 2 = 0 then
    .ok (.vpadl vd va (imm.extractLsb' 0 6).toNat (fillOf imm))
  else .error (.unusedImmediateBit op)

/-- The immediate of `VSHR`: `n = imm[11:0]` (R82). -/
def decodeVshr (vd va : VIdx) (imm : BitVec 12) : Except DecodeError Instr :=
  .ok (.vshr vd va imm.toNat)

/-- Decode the fields by the opcode map (R83). -/
def decodeFields (f : Fields) : Except DecodeError Instr :=
  match f.op.toNat with
  | 0x02 => decodeZ f .zeroize
  | 0x03 => decodeZ f .clrcnt
  | 0x10 => decodeVVV f .vand
  | 0x11 => decodeVVV f .vor
  | 0x12 => decodeVVV f .vxor
  | 0x13 => decodeVVI f decodeVsub
  | 0x14 => decodeVVV f .vcat
  | 0x15 => decodeVVI f (decodeVpadl f.op)
  | 0x16 => decodeVVI f decodeVshr
  | 0x20 => decodeVVV f .genipek
  | 0x21 => decodeVVV f .derive
  | 0x30 => decodeVVV f .bpekh
  | 0x31 => decodeVVV f .bpek
  | 0x32 => decodeVV f .pekv
  | 0x33 => decodeVV f .peknv
  | 0x40 => decodeSVV f .encd
  | 0x41 => decodeSVV f .decd
  | 0x42 => decodeSVV f .dectrk
  | _ => .error (.unassignedOpcode f.op)

/-- The command a word stands for, or why it stands for none (R84, R85). -/
def decode (w : Word) : Except DecodeError Instr := decodeFields (fieldsOf w)

/-- Word assembly: `op·2^24 + vd·2^20 + va·2^16 + vb·2^12 + imm` (R86). -/
def assemble (op vd va vb imm : Nat) : Word :=
  BitVec.ofNat 32 (op * 0x1000000 + vd * 0x100000 + va * 0x10000 + vb * 0x1000 + imm)

/-- The fill bit (R82). -/
def fillBit : FillByte → Nat
  | .x00 => 0
  | .xFF => 1

/-- The word of a command (R83, R86). -/
def encode : Instr → Word
  | .zeroize => assemble 0x02 0 0 0 0
  | .clrcnt => assemble 0x03 0 0 0 0
  | .vand vd va vb => assemble 0x10 vd va vb 0
  | .vor vd va vb => assemble 0x11 vd va vb 0
  | .vxor vd va vb => assemble 0x12 vd va vb 0
  | .vsub vd va first last => assemble 0x13 vd va 0 (first * 64 + last)
  | .vcat vd va vb => assemble 0x14 vd va vb 0
  | .vpadl vd va length fill => assemble 0x15 vd va 0 (fillBit fill * 256 + length)
  | .vshr vd va n => assemble 0x16 vd va 0 n
  | .genipek vd va vb => assemble 0x20 vd va vb 0
  | .derive vd va vb => assemble 0x21 vd va vb 0
  | .bpekh vd va vb => assemble 0x30 vd va vb 0
  | .bpek vd va vb => assemble 0x31 vd va vb 0
  | .pekv vd va => assemble 0x32 vd va 0 0
  | .peknv vd va => assemble 0x33 vd va 0 0
  | .encd va vb => assemble 0x40 0 va vb 0
  | .decd va vb => assemble 0x41 0 va vb 0
  | .dectrk va vb => assemble 0x42 0 va vb 0

/-- The word whose low `nbits` bits are those of `w` and whose other bits are 0. -/
def tableWord (nbits w : Nat) : Word := BitVec.ofNat 32 (w % 2 ^ nbits)

/-- What the decoder reads from an instruction whose bits are `w`, numbered as
spec/opcode_table.json numbers them. A command is one 32-bit word moved whole (20_memory.md R54). -/
def decodeTableWord (nbits w : Nat) : Option Instr :=
  match decode (tableWord nbits w) with
  | .ok i => some i
  | .error _ => none

end Sys2Proof
end

