-- ==== Sys2Proof/Machine/Bytes.lean ====
section
/-! DEFINITION. Byte-vector expressions: the notation of 00_scope.md R9 and R10, as functions. -/

namespace Sys2Proof.Machine

/-- `int(v)`: the vector read as an unsigned big-endian integer (R9). -/
def beInt (v : ByteVec) : Nat := v.foldl (fun acc b => acc * 256 + b.toNat) 0

/-- `enc(n, x)`: the `n`-byte vector whose integer is `x mod 256^n` (R9). -/
def encBytes (n x : Nat) : ByteVec :=
  (List.range n).map fun i => BitVec.ofNat 8 (x / 256 ^ (n - 1 - i))

/-- `fill(n, b)`: `n` copies of the byte `b` (R10). -/
def fillBytes (n : Nat) (b : Byte) : ByteVec := List.replicate n b

/-- `v[i..j]`: bytes `i` to `j`, both inclusive (R10). -/
def subBytes (v : ByteVec) (i j : Nat) : ByteVec := (v.drop i).take (j + 1 - i)

/-- `a AND b`, byte by byte, on vectors of equal length (R10). -/
def andBytes (a b : ByteVec) : ByteVec := List.zipWith (· &&& ·) a b

/-- `a OR b`, byte by byte, on vectors of equal length (R10). -/
def orBytes (a b : ByteVec) : ByteVec := List.zipWith (· ||| ·) a b

/-- `a XOR b`, byte by byte, on vectors of equal length (R10). -/
def xorBytes (a b : ByteVec) : ByteVec := List.zipWith (· ^^^ ·) a b

/-- `NOT a`: every byte complemented (R10). -/
def notBytes (a : ByteVec) : ByteVec := a.map (~~~ ·)

/-- `a >> n = enc(len(a), floor(int(a) / 2^n))` (R10). -/
def shrBytes (a : ByteVec) (n : Nat) : ByteVec := encBytes a.length (beInt a / 2 ^ n)

/-- `hw(x)`: the number of 1 bits of `x` (R10), counted over the `k` low bits. -/
def hammingWeight : Nat → Nat → Nat
  | 0, _ => 0
  | k + 1, x => x % 2 + hammingWeight k (x / 2)

/-- `n` bytes that begin with the bytes of `v` and end in `0x00` (10_state.md R22, R25). -/
def padData (n : Nat) (v : ByteVec) : Vector Byte n :=
  ⟨((v ++ List.replicate n 0).take n).toArray, by simp⟩

/-- Byte `j` of a word, byte 0 being `w[31:24]` (20_memory.md R54). -/
def wordByte (w : Word) (j : Nat) : Byte := w.extractLsb' (24 - 8 * j) 8

/-- Four bytes packed big-endian into a word (20_memory.md R54). -/
def packWord (b0 b1 b2 b3 : Byte) : Word :=
  BitVec.ofNat 32 (b0.toNat * 0x1000000 + b1.toNat * 0x10000 + b2.toNat * 0x100 + b3.toNat)

end Sys2Proof.Machine
end

