-- ==== Sys2Proof/Machine/State.lean ====
section
/-! DEFINITION. The whole state of the block (10_state.md R20), as plain data, the inputs the
environment has still to deliver, and the state after reset (R38, 70_reset_and_hazards.md R261). -/

namespace Sys2Proof.Machine

/-- The errors a command can raise (60_exceptions.md R231). -/
inductive Err
  | invalidKeyLength
  | invalidBlockLength
  | lengthMismatch
  | indexOutOfRange
  | cipherFailure
  | decodeFailure
  | illegalCommand
  | vectorOverflow
deriving DecidableEq, Repr

/-- The environment's choice for one cipher-port request (41_cipher_port.md R128). -/
inductive PortAnswer
  /-- The cipher unit answers with the value of the function. -/
  | answer
  /-- The cipher unit answers `fail`. -/
  | fail
deriving DecidableEq, Repr

/-- What the outside can do to the block: the two host accesses (20_memory.md R52, R53) and the
reset (70_reset_and_hazards.md R260). `width` is in bytes; only 4 is accepted (R55). -/
inductive HostInput
  | read (addr : BitVec 12) (width : Nat)
  | write (addr : BitVec 12) (width : Nat) (w : Word)
  | reset
deriving DecidableEq, Repr

/-- The bus's answer to a host access (20_memory.md R52, R53, R56). The model's own (log 2). -/
inductive BusAnswer
  /-- No access has been answered since reset. -/
  | idle
  /-- A write was accepted. -/
  | done
  /-- A read was accepted and returned this word. -/
  | data (w : Word)
  /-- The access was refused. -/
  | busError
deriving DecidableEq, Repr

/-- A length-carrying buffer: a vector register (10_state.md R21) or the payload buffer (R25). The
bytes of `data` at and beyond `len` are slack. -/
structure Buf (cap : Nat) where
  len : Nat
  data : Vector Byte cap
deriving DecidableEq, Repr

/-- The named working registers of the sequencer (10_state.md R33): 8 bytes each, `curkey` 16. -/
structure Work where
  r3 : ByteVec
  r8 : ByteVec
  sr : ByteVec
  curkey : ByteVec
  reg1 : ByteVec
  reg2 : ByteVec
deriving DecidableEq, Repr

/-- What the engine's functions may read and write beside their arguments (00_scope.md R12): the
two request counters (10_state.md R30), the working registers (R33), and the environment's answers
to the requests to come (log 3). -/
structure Engine where
  sdescnt : Word
  tdescnt : Word
  work : Work
  /-- The model's own: the environment's answers still to come, oldest first (R128, log 3). -/
  port : List PortAnswer
deriving DecidableEq, Repr

/-- The state (10_state.md R20), the host's pending inputs and the bus's last answer. `ID` is a
constant and has no field (R31, log 9). -/
structure State where
  /-- The sixteen vector registers (R21). -/
  v : Vector (Buf vcap) nvreg
  /-- The payload buffer (R25). -/
  p : Buf pcap
  /-- The last word written to `CMD` (R26). -/
  cmd : Word
  /-- The error code of the most recent command (R27). -/
  errcode : Word
  /-- One bit for each error code that has occurred since reset (R28). -/
  esticky : Word
  /-- Counters and working registers (R30, R33). -/
  eng : Engine
  /-- The model's own: the host's accesses still to come, oldest first (R35, R36, log 1). -/
  pending : List HostInput
  /-- The model's own: the bus's answer to the most recent access (log 2). -/
  bus : BusAnswer
deriving DecidableEq, Repr

/-- A fault would stop the machine. There is none: "no command and no host access can hang the
block" (93_implementation_defined.md); every error of a command is an abort, after which the block
goes on (60_exceptions.md R232), and every refused access is a bus error (20_memory.md R56). -/
inductive Fault
deriving DecidableEq, Repr

/-- Why the machine gives an instruction no meaning. -/
inductive Refusal
  /-- Raised by `exec`'s arm of a command that has no meaning yet; none is left. Safe: the model
  stops where the hardware goes on. -/
  | notModelled (mnemonic : String)
deriving DecidableEq, Repr

/-- The working registers at zero (10_state.md R33). -/
def Work.zero : Work where
  r3 := List.replicate 8 0
  r8 := List.replicate 8 0
  sr := List.replicate 8 0
  curkey := List.replicate 16 0
  reg1 := List.replicate 8 0
  reg2 := List.replicate 8 0

/-- The empty buffer with every byte `0x00` (10_state.md R38). -/
def Buf.empty (cap : Nat) : Buf cap where
  len := 0
  data := Vector.replicate cap 0

/-- The block right after reset (70_reset_and_hazards.md R261), with no input pending. -/
def State.reset : State where
  v := Vector.replicate nvreg (Buf.empty vcap)
  p := Buf.empty pcap
  cmd := 0
  errcode := 0
  esticky := 0
  eng := { sdescnt := 0, tdescnt := 0, work := Work.zero, port := [] }
  pending := []
  bus := .idle

end Sys2Proof.Machine
end

