-- ==== Sys2Proof/Machine/Flags.lean ====
section
/-! DEFINITION. The status the block keeps. There are no condition codes (10_state.md R29); the two
status registers are computed from the error of a command (R27, R28, 60_exceptions.md R231). -/

namespace Sys2Proof.Machine

/-- The error code (60_exceptions.md R231). Code 0 is `OK`. -/
def errCode : Err → Nat
  | .invalidKeyLength => 1
  | .invalidBlockLength => 2
  | .lengthMismatch => 3
  | .indexOutOfRange => 4
  | .cipherFailure => 5
  | .decodeFailure => 6
  | .illegalCommand => 7
  | .vectorOverflow => 8

/-- The word `ERRCODE` holds after an abort (10_state.md R27). -/
def errWord (e : Err) : Word := BitVec.ofNat 32 (errCode e)

/-- The bit of `ESTICKY` an abort sets: `2^code` (10_state.md R28, 60_exceptions.md R232). -/
def stickyBit (e : Err) : Word := BitVec.ofNat 32 (2 ^ errCode e)

end Sys2Proof.Machine
end

