-- ==== Sys2Proof/Machine/Ops.lean ====
section
/-! DEFINITION. The named operations over registers and the payload buffer, and the one exception
mechanism, the abort of a command (60_exceptions.md R232). There is no return from it (R238). -/

namespace Sys2Proof.Machine

/-- The value of a buffer: its first `len` bytes (10_state.md R21, R25). -/
def Buf.value {cap : Nat} (b : Buf cap) : ByteVec := b.data.toList.take b.len

/-- A command's write of `v` with `len(v) ≤ cap`: the length, the bytes, and zeros in the slack
(10_state.md R22, R25). -/
def Buf.ofBytes (cap : Nat) (v : ByteVec) : Buf cap where
  len := v.length
  data := padData cap v

/-- A host write of the length changes nothing else (10_state.md R23). -/
def Buf.setLen {cap : Nat} (b : Buf cap) (n : Nat) : Buf cap := { b with len := n }

/-- Data byte `j`, 0 past the end. -/
def Buf.byte {cap : Nat} (b : Buf cap) (j : Nat) : Byte := b.data.toList.getD j 0

/-- Data word `k` (20_memory.md R54). -/
def Buf.word {cap : Nat} (b : Buf cap) (k : Nat) : Word :=
  packWord (b.byte (4 * k)) (b.byte (4 * k + 1)) (b.byte (4 * k + 2)) (b.byte (4 * k + 3))

/-- Replace data byte `j`; nothing past the end. -/
def Buf.setByte {cap : Nat} (b : Buf cap) (j : Nat) (x : Byte) : Buf cap :=
  { b with data := b.data.setIfInBounds j x }

/-- A host write of data word `k` changes its four bytes and nothing else (10_state.md R23,
20_memory.md R53, R54). -/
def Buf.setWord {cap : Nat} (b : Buf cap) (k : Nat) (w : Word) : Buf cap :=
  let b1 := (b.setByte (4 * k) (wordByte w 0)).setByte (4 * k + 1) (wordByte w 1)
  (b1.setByte (4 * k + 2) (wordByte w 2)).setByte (4 * k + 3) (wordByte w 3)

/-- Vector register `i`. -/
def State.vreg (s : State) (i : VIdx) : Buf vcap := s.v.get i

/-- Replace vector register `i`. -/
def State.setVreg (s : State) (i : VIdx) (b : Buf vcap) : State :=
  { s with v := s.v.set i.val b i.isLt }

/-- `V[i]`, the value of vector register `i` (00_scope.md R11). -/
def State.vval (s : State) (i : VIdx) : ByteVec := (s.vreg i).value

/-- `V[i] <- v`, a command's register write (00_scope.md R11, 10_state.md R22). -/
def State.writeV (s : State) (i : VIdx) (v : ByteVec) : State := s.setVreg i (Buf.ofBytes vcap v)

/-- `P`, the value of the payload buffer (00_scope.md R11). -/
def State.pval (s : State) : ByteVec := s.p.value

/-- `P <- v`, a command's write of the payload buffer (00_scope.md R11, 10_state.md R25). -/
def State.writeP (s : State) (v : ByteVec) : State := { s with p := Buf.ofBytes pcap v }

/-- All working registers to zero (10_state.md R33). -/
def Engine.clear (e : Engine) : Engine := { e with work := Work.zero }

/-- The end of a command that raised nothing: `ERRCODE <- 0`, working registers zero
(30_encoding.md R85). -/
def complete (s : State) : State := { s with errcode := 0, eng := s.eng.clear }

/-- TAKING THE EXCEPTION: the end of a command that raised `err` (60_exceptions.md R232). `ERRCODE`
gets the code, `ESTICKY` its bit, the working registers are zeroed; the counters stand as the
engine left them; nothing else changes. -/
def abort (err : Err) (s : State) : State :=
  { s with
    errcode := errWord err
    esticky := s.esticky ||| stickyBit err
    eng := s.eng.clear }

/-- What a function of the engine answers: a value, or a raised error, each with the counters,
working registers and remaining port answers as they then stand (00_scope.md R12). -/
inductive Res (α : Type) where
  | ok (a : α) (e : Engine)
  | raise (err : Err) (e : Engine)
deriving Repr

/-- Go on with a value; a raised error ends the computation at that point (41_cipher_port.md
R129). -/
def Res.andThen {α β : Type} : Res α → (α → Engine → Res β) → Res β
  | .ok a e, f => f a e
  | .raise err e, _ => .raise err e

/-- Replace every raised error by `DecodeFailure` (60_exceptions.md R234). -/
def Res.mask {α : Type} : Res α → Res α
  | .ok a e => .ok a e
  | .raise _ e => .raise .decodeFailure e

/-- The end of a command whose destination is `V[vd]`: written on completion only. -/
def finishV (vd : VIdx) (s : State) : Res ByteVec → State
  | .ok r e => complete ({ s with eng := e }.writeV vd r)
  | .raise err e => abort err { s with eng := e }

/-- The end of a command whose destination is `P`: written on completion only. -/
def finishP (s : State) : Res ByteVec → State
  | .ok r e => complete ({ s with eng := e }.writeP r)
  | .raise err e => abort err { s with eng := e }

end Sys2Proof.Machine
end

