-- ==== Sys2Proof/Machine/Operands.lean ====
section
/-! DEFINITION. The operand forms (30_encoding.md R81): which registers a command reads, before any
write (10_state.md R24), and which it writes. -/

namespace Sys2Proof.Machine

/-- Form `VVV`: sources `V[va]` and `V[vb]`, destination `V[vd]`. -/
def formVVV (f : ByteVec → ByteVec → Engine → Res ByteVec) (vd va vb : VIdx) (s : State) : State :=
  finishV vd s (f (s.vval va) (s.vval vb) s.eng)

/-- Forms `VV` and `VVI`: source `V[va]`, destination `V[vd]`; an immediate is part of `f`. -/
def formVV (f : ByteVec → Engine → Res ByteVec) (vd va : VIdx) (s : State) : State :=
  finishV vd s (f (s.vval va) s.eng)

/-- Form `SVV`: sources `V[va]`, `V[vb]` and the payload `P`, destination `P`. -/
def formSVV (f : ByteVec → ByteVec → ByteVec → Engine → Res ByteVec) (va vb : VIdx) (s : State) :
    State :=
  finishP s (f (s.vval va) (s.vval vb) s.pval s.eng)

/-- Form `Z`: no operand. -/
def formZ (f : State → State) (s : State) : State := complete (f s)

end Sys2Proof.Machine
end

