-- ==== Sys2Proof/Machine/ByteUnit.lean ====
section
/-! DEFINITION. The byte-vector unit: VAND, VOR, VXOR, VSUB, VCAT, VPADL, VSHR
(40_bytevector_alu.md R100 to R109). Each is a pure function of its source values; it issues no
cipher request and leaves the engine as it is (R100). -/

namespace Sys2Proof.Machine

/-- An element-wise operation on vectors of equal length (R101 to R103). -/
def elementwise (f : ByteVec → ByteVec → ByteVec) (a b : ByteVec) (e : Engine) : Res ByteVec :=
  if a.length ≠ b.length then .raise .lengthMismatch e else .ok (f a b) e

/-- `subrange(from, to)`, bounds inclusive (R104). -/
def subrange (first last : Nat) (a : ByteVec) (e : Engine) : Res ByteVec :=
  if first > last ∨ last ≥ a.length then .raise .indexOutOfRange e else .ok (subBytes a first last) e

/-- `concat(left, right)` (R105). -/
def concat (a b : ByteVec) (e : Engine) : Res ByteVec :=
  if a.length + b.length > vcap then .raise .vectorOverflow e else .ok (a ++ b) e

/-- The byte `VPADL` fills with (R106). -/
def fillValue : FillByte → Byte
  | .x00 => 0x00
  | .xFF => 0xFF

/-- `padLeft(value, length, fillByte)` (R106). -/
def padLeft (length : Nat) (fill : FillByte) (a : ByteVec) (e : Engine) : Res ByteVec :=
  if length > vcap then .raise .vectorOverflow e
  else if a.length > length then .raise .indexOutOfRange e
  else .ok (fillBytes (length - a.length) (fillValue fill) ++ a) e

/-- `shiftRightAsInteger(vector, n)` (R107). -/
def shiftRight (n : Nat) (a : ByteVec) (e : Engine) : Res ByteVec := .ok (shrBytes a n) e

/-- VAND (R101). -/
def execVand (vd va vb : VIdx) (s : State) : Host.Outcome State Fault Refusal :=
  .next (formVVV (elementwise andBytes) vd va vb s)

/-- VOR (R102). -/
def execVor (vd va vb : VIdx) (s : State) : Host.Outcome State Fault Refusal :=
  .next (formVVV (elementwise orBytes) vd va vb s)

/-- VXOR (R103). -/
def execVxor (vd va vb : VIdx) (s : State) : Host.Outcome State Fault Refusal :=
  .next (formVVV (elementwise xorBytes) vd va vb s)

/-- VSUB (R104). -/
def execVsub (vd va : VIdx) (first last : Nat) (s : State) : Host.Outcome State Fault Refusal :=
  .next (formVV (subrange first last) vd va s)

/-- VCAT (R105). -/
def execVcat (vd va vb : VIdx) (s : State) : Host.Outcome State Fault Refusal :=
  .next (formVVV concat vd va vb s)

/-- VPADL (R106). -/
def execVpadl (vd va : VIdx) (length : Nat) (fill : FillByte) (s : State) :
    Host.Outcome State Fault Refusal :=
  .next (formVV (padLeft length fill) vd va s)

/-- VSHR (R107). -/
def execVshr (vd va : VIdx) (n : Nat) (s : State) : Host.Outcome State Fault Refusal :=
  .next (formVV (shiftRight n) vd va s)

end Sys2Proof.Machine
end

