-- ==== Sys2Proof/Machine/Constants.lean ====
section
/-! DEFINITION. The wired constants (00_scope.md R13, 10_state.md R31). -/

namespace Sys2Proof.Machine

/-- `VARIANT_MASK`: `C0C0C0C0 00000000 C0C0C0C0 00000000` (R13). -/
def variantMask : ByteVec := encBytes 16 0xC0C0C0C000000000C0C0C0C000000000

/-- `VARIANT_MASK24`: the pattern for a 24-byte BDK (R13, 42_key_derivation.md R142). -/
def variantMask24 : ByteVec := encBytes 24 0xC0C0C0C000000000C0C0C0C000000000C0C0C0C000000000

/-- `COUNTER_MASK`: the low 21 bits of a 10-byte KSN (R13, 42_key_derivation.md R141). -/
def counterMask : ByteVec := encBytes 10 0x1FFFFF

/-- `PIN_CONST`: `00 00 00 00 00 FF 00 00` (R13). -/
def pinConst : ByteVec := encBytes 8 0xFF0000

/-- `SR_INIT = 2^20`, 8 bytes (R13, after conflict C1 of 90_conflicts.md). -/
def srInit : ByteVec := encBytes 8 0x100000

/-- The constant the `ID` register reads as (10_state.md R31). -/
def idValue : Word := 0x444B4501

end Sys2Proof.Machine
end

