-- ==== Sys2Proof/Machine/Des.lean ====
section
/-! DEFINITION. The reference cipher: DES, triple DES in EDE order, CBC with a zero initialization
vector (46_des_reference.md R210 to R219), the default of the parameter `CIPHER`. DES numbers the
bits of a block from 1, the most significant first. -/

namespace Sys2Proof.Machine

/-- A table defines a selection: output bit `j` is input bit `T[j]` (46_des_reference.md). Bit `i`
of an `n`-bit value, counted from 1, is bit `n - i` counted from 0 at the least significant end. -/
def desSelect {n : Nat} (m : Nat) (table : List Nat) (x : BitVec n) : BitVec m :=
  BitVec.ofNat m (table.foldl (fun acc i => 2 * acc + (x.toNat >>> (n - i)) % 2) 0)

/-- The initial permutation (R210). -/
def desIP : List Nat :=
  [58, 50, 42, 34, 26, 18, 10, 2, 60, 52, 44, 36, 28, 20, 12, 4,
   62, 54, 46, 38, 30, 22, 14, 6, 64, 56, 48, 40, 32, 24, 16, 8,
   57, 49, 41, 33, 25, 17, 9, 1, 59, 51, 43, 35, 27, 19, 11, 3,
   61, 53, 45, 37, 29, 21, 13, 5, 63, 55, 47, 39, 31, 23, 15, 7]

/-- The final permutation (R210). -/
def desFP : List Nat :=
  [40, 8, 48, 16, 56, 24, 64, 32, 39, 7, 47, 15, 55, 23, 63, 31,
   38, 6, 46, 14, 54, 22, 62, 30, 37, 5, 45, 13, 53, 21, 61, 29,
   36, 4, 44, 12, 52, 20, 60, 28, 35, 3, 43, 11, 51, 19, 59, 27,
   34, 2, 42, 10, 50, 18, 58, 26, 33, 1, 41, 9, 49, 17, 57, 25]

/-- The expansion `E`, 32 bits to 48 (R211). -/
def desE48 : List Nat :=
  [32, 1, 2, 3, 4, 5, 4, 5, 6, 7, 8, 9,
   8, 9, 10, 11, 12, 13, 12, 13, 14, 15, 16, 17,
   16, 17, 18, 19, 20, 21, 20, 21, 22, 23, 24, 25,
   24, 25, 26, 27, 28, 29, 28, 29, 30, 31, 32, 1]

/-- The permutation `P`, 32 bits to 32 (R211). -/
def desP32 : List Nat :=
  [16, 7, 20, 21, 29, 12, 28, 17, 1, 15, 23, 26, 5, 18, 31, 10,
   2, 8, 24, 14, 32, 27, 3, 9, 19, 13, 30, 6, 22, 11, 4, 25]

/-- The substitution boxes, each four rows of sixteen (R212). -/
def desSBox : List (List (List Nat)) :=
  [[[14, 4, 13, 1, 2, 15, 11, 8, 3, 10, 6, 12, 5, 9, 0, 7],
    [0, 15, 7, 4, 14, 2, 13, 1, 10, 6, 12, 11, 9, 5, 3, 8],
    [4, 1, 14, 8, 13, 6, 2, 11, 15, 12, 9, 7, 3, 10, 5, 0],
    [15, 12, 8, 2, 4, 9, 1, 7, 5, 11, 3, 14, 10, 0, 6, 13]],
   [[15, 1, 8, 14, 6, 11, 3, 4, 9, 7, 2, 13, 12, 0, 5, 10],
    [3, 13, 4, 7, 15, 2, 8, 14, 12, 0, 1, 10, 6, 9, 11, 5],
    [0, 14, 7, 11, 10, 4, 13, 1, 5, 8, 12, 6, 9, 3, 2, 15],
    [13, 8, 10, 1, 3, 15, 4, 2, 11, 6, 7, 12, 0, 5, 14, 9]],
   [[10, 0, 9, 14, 6, 3, 15, 5, 1, 13, 12, 7, 11, 4, 2, 8],
    [13, 7, 0, 9, 3, 4, 6, 10, 2, 8, 5, 14, 12, 11, 15, 1],
    [13, 6, 4, 9, 8, 15, 3, 0, 11, 1, 2, 12, 5, 10, 14, 7],
    [1, 10, 13, 0, 6, 9, 8, 7, 4, 15, 14, 3, 11, 5, 2, 12]],
   [[7, 13, 14, 3, 0, 6, 9, 10, 1, 2, 8, 5, 11, 12, 4, 15],
    [13, 8, 11, 5, 6, 15, 0, 3, 4, 7, 2, 12, 1, 10, 14, 9],
    [10, 6, 9, 0, 12, 11, 7, 13, 15, 1, 3, 14, 5, 2, 8, 4],
    [3, 15, 0, 6, 10, 1, 13, 8, 9, 4, 5, 11, 12, 7, 2, 14]],
   [[2, 12, 4, 1, 7, 10, 11, 6, 8, 5, 3, 15, 13, 0, 14, 9],
    [14, 11, 2, 12, 4, 7, 13, 1, 5, 0, 15, 10, 3, 9, 8, 6],
    [4, 2, 1, 11, 10, 13, 7, 8, 15, 9, 12, 5, 6, 3, 0, 14],
    [11, 8, 12, 7, 1, 14, 2, 13, 6, 15, 0, 9, 10, 4, 5, 3]],
   [[12, 1, 10, 15, 9, 2, 6, 8, 0, 13, 3, 4, 14, 7, 5, 11],
    [10, 15, 4, 2, 7, 12, 9, 5, 6, 1, 13, 14, 0, 11, 3, 8],
    [9, 14, 15, 5, 2, 8, 12, 3, 7, 0, 4, 10, 1, 13, 11, 6],
    [4, 3, 2, 12, 9, 5, 15, 10, 11, 14, 1, 7, 6, 0, 8, 13]],
   [[4, 11, 2, 14, 15, 0, 8, 13, 3, 12, 9, 7, 5, 10, 6, 1],
    [13, 0, 11, 7, 4, 9, 1, 10, 14, 3, 5, 12, 2, 15, 8, 6],
    [1, 4, 11, 13, 12, 3, 7, 14, 10, 15, 6, 8, 0, 5, 9, 2],
    [6, 11, 13, 8, 1, 4, 10, 7, 9, 5, 0, 15, 14, 2, 3, 12]],
   [[13, 2, 8, 4, 6, 15, 11, 1, 10, 9, 3, 14, 5, 0, 12, 7],
    [1, 15, 13, 8, 10, 3, 7, 4, 12, 5, 6, 11, 0, 14, 9, 2],
    [7, 11, 4, 1, 9, 12, 14, 2, 0, 6, 10, 13, 15, 3, 5, 8],
    [2, 1, 14, 7, 4, 10, 8, 13, 15, 12, 9, 0, 3, 5, 6, 11]]]

/-- Permuted choice 1, 64 key bits to 56; the parity bits are not selected (R213). -/
def desPC1 : List Nat :=
  [57, 49, 41, 33, 25, 17, 9, 1, 58, 50, 42, 34, 26, 18,
   10, 2, 59, 51, 43, 35, 27, 19, 11, 3, 60, 52, 44, 36,
   63, 55, 47, 39, 31, 23, 15, 7, 62, 54, 46, 38, 30, 22,
   14, 6, 61, 53, 45, 37, 29, 21, 13, 5, 28, 20, 12, 4]

/-- Permuted choice 2, 56 bits to 48 (R213). -/
def desPC2 : List Nat :=
  [14, 17, 11, 24, 1, 5, 3, 28, 15, 6, 21, 10,
   23, 19, 12, 4, 26, 8, 16, 7, 27, 20, 13, 2,
   41, 52, 31, 37, 47, 55, 30, 40, 51, 45, 33, 48,
   44, 49, 39, 56, 34, 53, 46, 42, 50, 36, 29, 32]

/-- The left-rotation amounts of rounds 1 to 16 (R213). -/
def desRotations : List Nat := [1, 1, 2, 2, 2, 2, 2, 2, 1, 2, 2, 2, 2, 2, 2, 1]

/-- The round keys for the rotations still to come (R214). -/
def desRoundKeysFrom : List Nat → BitVec 28 → BitVec 28 → List (BitVec 48)
  | [], _, _ => []
  | n :: ns, c, d =>
    desSelect 48 desPC2 (c.rotateLeft n ++ d.rotateLeft n) ::
      desRoundKeysFrom ns (c.rotateLeft n) (d.rotateLeft n)

/-- The sixteen round keys `K_1 … K_16` (R214). -/
def desRoundKeys (key : BitVec 64) : List (BitVec 48) :=
  desRoundKeysFrom desRotations ((desSelect 56 desPC1 key).extractLsb' 28 28)
    ((desSelect 56 desPC1 key).extractLsb' 0 28)

/-- The entry of box `j` for the 6 bits `g`: row `2·b1 + b6`, column `b2 b3 b4 b5` (R212). -/
def desSubstitute (j g : Nat) : Nat :=
  ((desSBox.getD j []).getD (2 * (g / 32) + g % 2) []).getD (g / 2 % 16) 0

/-- The eight 4-bit outputs for the 48 bits `x`, concatenated, first box first (R215). -/
def desBoxes (x : BitVec 48) : BitVec 32 :=
  BitVec.ofNat 32 ((List.range 8).foldl
    (fun acc j => 16 * acc + desSubstitute j ((x.toNat >>> (42 - 6 * j)) % 64)) 0)

/-- The round function `f(R, K)` (R215). -/
def desF (r : BitVec 32) (k : BitVec 48) : BitVec 32 :=
  desSelect 32 desP32 (desBoxes (desSelect 48 desE48 r ^^^ k))

/-- The rounds: `L_i = R_(i-1)`, `R_i = L_(i-1) XOR f(R_(i-1), K_i)` (R216). -/
def desRounds : List (BitVec 48) → BitVec 32 × BitVec 32 → BitVec 32 × BitVec 32
  | [], lr => lr
  | k :: ks, lr => desRounds ks (lr.2, lr.1 ^^^ desF lr.2 k)

/-- The halves of a 64-bit block. -/
def desHalves (x : BitVec 64) : BitVec 32 × BitVec 32 := (x.extractLsb' 32 32, x.extractLsb' 0 32)

/-- One DES block with the round keys in the order given; the halves are swapped at the end
(R216). -/
def desBlock (keys : List (BitVec 48)) (block : BitVec 64) : BitVec 64 :=
  let lr := desRounds keys (desHalves (desSelect 64 desIP block))
  desSelect 64 desFP (lr.2 ++ lr.1)

/-- `DES_E` on words (R216). -/
def desEnc (key block : BitVec 64) : BitVec 64 := desBlock (desRoundKeys key) block

/-- `DES_D` on words: the round keys in the order `K_16, …, K_1` (R216). -/
def desDec (key block : BitVec 64) : BitVec 64 := desBlock (desRoundKeys key).reverse block

/-- Eight bytes as a 64-bit block, byte 0 most significant (46_des_reference.md, bit numbering). -/
def blockBits (v : ByteVec) : BitVec 64 := BitVec.ofNat 64 (beInt v)

/-- A 64-bit block as eight bytes. -/
def blockBytes (x : BitVec 64) : ByteVec := encBytes 8 x.toNat

/-- Triple DES encryption of one block, `E_k3(D_k2(E_k1(b)))` (R217). -/
def tdesEnc (k1 k2 k3 block : BitVec 64) : BitVec 64 := desEnc k3 (desDec k2 (desEnc k1 block))

/-- Triple DES decryption of one block, `D_k1(E_k2(D_k3(b)))` (R217). -/
def tdesDec (k1 k2 k3 block : BitVec 64) : BitVec 64 := desDec k1 (desEnc k2 (desDec k3 block))

/-- The 8-byte blocks of data, each as a word (R218). -/
def dataBlocks (d : ByteVec) : List (BitVec 64) :=
  (List.range (d.length / 8)).map fun i => blockBits ((d.drop (8 * i)).take 8)

/-- The bytes of a list of blocks, first block first. -/
def blocksData (bs : List (BitVec 64)) : ByteVec := bs.flatMap blockBytes

/-- CBC encryption after the block `prev`: `c_i = E(d_i XOR c_(i-1))` (R218). -/
def cbcEnc (enc : BitVec 64 → BitVec 64) : BitVec 64 → List (BitVec 64) → List (BitVec 64)
  | _, [] => []
  | prev, d :: ds => enc (d ^^^ prev) :: cbcEnc enc (enc (d ^^^ prev)) ds

/-- CBC decryption after the block `prev`: `d_i = D(c_i) XOR c_(i-1)` (R218). -/
def cbcDec (dec : BitVec 64 → BitVec 64) : BitVec 64 → List (BitVec 64) → List (BitVec 64)
  | _, [] => []
  | prev, c :: cs => (dec c ^^^ prev) :: cbcDec dec c cs

/-- `DES_E` on bytes (R216). -/
def refDesE (key block : ByteVec) : ByteVec := blockBytes (desEnc (blockBits key) (blockBits block))

/-- `DES_D` on bytes (R216); the port has no such request, triple DES uses it. -/
def refDesD (key block : ByteVec) : ByteVec := blockBytes (desDec (blockBits key) (blockBits block))

/-- Key part `j` of a 24-byte key, `k = k1 ‖ k2 ‖ k3`, counted from 0 (R217). -/
def keyPart (k : ByteVec) (j : Nat) : BitVec 64 := blockBits ((k.drop (8 * j)).take 8)

/-- `TDES_CBC_E` with the all-zero initialization vector (R218). -/
def refTdesCbcE (k d : ByteVec) : ByteVec :=
  blocksData (cbcEnc (tdesEnc (keyPart k 0) (keyPart k 1) (keyPart k 2)) 0 (dataBlocks d))

/-- `TDES_CBC_D` with the all-zero initialization vector (R218). -/
def refTdesCbcD (k d : ByteVec) : ByteVec :=
  blocksData (cbcDec (tdesDec (keyPart k 0) (keyPart k 1) (keyPart k 2)) 0 (dataBlocks d))

end Sys2Proof.Machine
end

