-- ==== Sys2Proof/Machine/Cipher.lean ====
section
/-! DEFINITION. The cipher adapter and the cipher port (41_cipher_port.md R120 to R129), and the
parameters this machine runs with. -/

namespace Sys2Proof.Machine

/-- The reference cipher of 46_des_reference.md. -/
def refCipher : Cipher where
  desE := refDesE
  tdesCbcE := refTdesCbcE
  tdesCbcD := refTdesCbcD

/-- The parameters of the machine, at the defaults of 92_eei_decisions.md: reading A of `ksnMod`
(log 6), a cipher unit that may fail (log 7), the reference cipher (log 4). DESIGN CHOICE, all
three: the spec calls them OPEN. -/
def dke : Config where
  ksnModReading := .a
  cipherMayFail := true
  cipher := refCipher

/-- The answer of the cipher unit to one issued request whose function value is `r`: the
environment chooses `fail` or `r` (R128); no choice listed means `r` (log 3). -/
def portRespond (c : Config) (r : ByteVec) (e : Engine) : Res ByteVec :=
  if c.cipherMayFail then
    match e.port with
    | [] => .ok r e
    | .answer :: rest => .ok r { e with port := rest }
    | .fail :: rest => .raise .cipherFailure { e with port := rest }
  else .ok r e

/-- A request is counted when it is issued, before the response is known (R127). -/
def countDes (e : Engine) : Engine := { e with sdescnt := e.sdescnt + 1 }

/-- A triple-DES request, of either direction and any number of blocks, is counted once (R127). -/
def countTdes (e : Engine) : Engine := { e with tdescnt := e.tdescnt + 1 }

/-- `expand(key)`: `K1 ‖ K2` becomes `K1 ‖ K2 ‖ K1`; 24 bytes stay as they are (R125). -/
def expandKey (key : ByteVec) : ByteVec := if key.length = 16 then key ++ key.take 8 else key

/-- `tripleDesEncrypt(data, key)` (R122). -/
def tripleDesEncrypt (c : Config) (data key : ByteVec) (e : Engine) : Res ByteVec :=
  if key.length ≠ 16 ∧ key.length ≠ 24 then .raise .invalidKeyLength e
  else if data.length % 8 ≠ 0 then .raise .invalidBlockLength e
  else portRespond c (c.cipher.tdesCbcE (expandKey key) data) (countTdes e)

/-- `tripleDesDecrypt(data, key)` (R123). -/
def tripleDesDecrypt (c : Config) (data key : ByteVec) (e : Engine) : Res ByteVec :=
  if key.length ≠ 16 ∧ key.length ≠ 24 then .raise .invalidKeyLength e
  else if data.length % 8 ≠ 0 then .raise .invalidBlockLength e
  else portRespond c (c.cipher.tdesCbcD (expandKey key) data) (countTdes e)

/-- `singleDesEncrypt(block, key)` (R124). -/
def singleDesEncrypt (c : Config) (block key : ByteVec) (e : Engine) : Res ByteVec :=
  if key.length ≠ 8 then .raise .invalidKeyLength e
  else if block.length ≠ 8 then .raise .invalidBlockLength e
  else portRespond c (c.cipher.desE key block) (countDes e)

end Sys2Proof.Machine
end

