-- ==== Sys2Proof/Machine/Derivation.lean ====
section
/-! DEFINITION. Key derivation: GENIPEK and DERIVE (42_key_derivation.md R140 to R152). -/

namespace Sys2Proof.Machine

/-- The left half of a 16-byte key, `key[0..7]` (R146, 43_key_construction.md R162). -/
def leftHalf (key : ByteVec) : ByteVec := subBytes key 0 7

/-- The right half of a 16-byte key, `key[8..15]` (R146, 43_key_construction.md R162). -/
def rightHalf (key : ByteVec) : ByteVec := subBytes key 8 15

/-- `ksn0`: the KSN with its transaction counter zeroed (R143 step 1). -/
def zeroCounter (ksn : ByteVec) : ByteVec := andBytes ksn (notBytes counterMask)

/-- The variant mask matched to the key's length (R143 step 4, R142). -/
def bdkMask (bdk : ByteVec) : ByteVec := if bdk.length = 16 then variantMask else variantMask24

/-- `generateIPEK(ksn, bdk)` (R143). -/
def generateIpek (c : Config) (ksn bdk : ByteVec) (e : Engine) : Res ByteVec :=
  if ksn.length ≠ 10 then .raise .lengthMismatch e
  else
    let core := subBytes (zeroCounter ksn) 0 7
    (tripleDesEncrypt c core bdk e).andThen fun left e1 =>
    (tripleDesEncrypt c core (xorBytes bdk (bdkMask bdk)) e1).andThen fun right e2 =>
    .ok (left ++ right) e2

/-- Steps 1 and 2 of `deriveKey`: the counter into `R3`, the counter-zeroed device identifier into
`R8` (R146). -/
def loadCounter (ksn : ByteVec) (e : Engine) : Engine :=
  { e with work := { e.work with
      r3 := subBytes (andBytes ksn counterMask) 2 9
      r8 := subBytes (zeroCounter ksn) 2 9 } }

/-- `REG2` of one key update, from the key as it stands (R146 step 4b). -/
def updateReg2 (c : Config) (e : Engine) : Res Unit :=
  let key := e.work.curkey
  let e1 := { e with work := { e.work with reg2 := xorBytes e.work.r8 (rightHalf key) } }
  (singleDesEncrypt c e1.work.reg2 (leftHalf key) e1).andThen fun enc e2 =>
  .ok () { e2 with work := { e2.work with reg2 := xorBytes enc (rightHalf key) } }

/-- `REG1` of one key update, from the key as it stands, which by then is the variant (R146 step
4b). -/
def updateReg1 (c : Config) (e : Engine) : Res Unit :=
  let key := e.work.curkey
  let e1 := { e with work := { e.work with reg1 := xorBytes e.work.r8 (rightHalf key) } }
  (singleDesEncrypt c e1.work.reg1 (leftHalf key) e1).andThen fun enc e2 =>
  .ok () { e2 with work := { e2.work with reg1 := xorBytes enc (rightHalf key) } }

/-- `R8 <- R8 OR SR` (R146 step 4b). -/
def orMask (e : Engine) : Engine :=
  { e with work := { e.work with r8 := orBytes e.work.r8 e.work.sr } }

/-- `CURKEY <- CURKEY XOR VARIANT_MASK` (R146 step 4b). -/
def varyKey (e : Engine) : Engine :=
  { e with work := { e.work with curkey := xorBytes e.work.curkey variantMask } }

/-- `CURKEY <- REG1 ‖ REG2` (R146 step 4b). -/
def joinKey (e : Engine) : Engine :=
  { e with work := { e.work with curkey := e.work.reg1 ++ e.work.reg2 } }

/-- `SR <- SR >> 1` (R146 step 4). -/
def shiftMask (e : Engine) : Engine :=
  { e with work := { e.work with sr := shrBytes e.work.sr 1 } }

/-- The key update of step 4b (R146). -/
def keyUpdate (c : Config) (e : Engine) : Res Unit :=
  (updateReg2 c (orMask e)).andThen fun _ e1 =>
  (updateReg1 c (varyKey e1)).andThen fun _ e2 =>
  .ok () (joinKey e2)

/-- One pass of the loop body: step 4a, or the key update of step 4b, then the shift (R146). -/
def derivePass (c : Config) (e : Engine) : Res Unit :=
  if andBytes e.work.sr e.work.r3 = fillBytes 8 0 then .ok () (shiftMask e)
  else (keyUpdate c e).andThen fun _ e1 => .ok () (shiftMask e1)

/-- The loop: passes while `SR` is not zero (R146 step 4). The bound is the number of bits of `SR`,
so it is never what ends the loop (log 11). -/
def deriveLoop (c : Config) : Nat → Engine → Res Unit
  | 0, e => .ok () e
  | n + 1, e =>
    if e.work.sr = fillBytes 8 0 then .ok () e
    else (derivePass c e).andThen fun _ e1 => deriveLoop c n e1

/-- `deriveKey(ksn, bdk)` (R146). -/
def deriveKey (c : Config) (ksn bdk : ByteVec) (e : Engine) : Res ByteVec :=
  if ksn.length ≠ 10 then .raise .lengthMismatch e
  else
    (generateIpek c ksn bdk (loadCounter ksn e)).andThen fun ipek e1 =>
    (deriveLoop c 64 { e1 with work := { e1.work with curkey := ipek, sr := srInit } }).andThen
      fun _ e2 => .ok e2.work.curkey e2

/-- GENIPEK (R144). -/
def execGenipek (vd va vb : VIdx) (s : State) : Host.Outcome State Fault Refusal :=
  .next (formVVV (generateIpek dke) vd va vb s)

/-- DERIVE (R147). -/
def execDerive (vd va vb : VIdx) (s : State) : Host.Outcome State Fault Refusal :=
  .next (formVVV (deriveKey dke) vd va vb s)

end Sys2Proof.Machine
end

