-- ==== Sys2Proof/Machine/Construction.lean ====
section
/-! DEFINITION. PIN/data key construction: BPEKH, BPEK, PEKV, PEKNV (43_key_construction.md R160 to
R171). -/

namespace Sys2Proof.Machine

/-- `ksnMod` under either reading (R161). -/
def ksnMod (r : KsnModReading) (ksn : ByteVec) : ByteVec :=
  match r with
  | .a => subBytes ksn 2 9
  | .b => fillBytes 2 0 ++ subBytes ksn 4 9

/-- `basePekHalf(key, ksn)` (R162). -/
def basePekHalf (c : Config) (key ksn : ByteVec) (e : Engine) : Res ByteVec :=
  if key.length ≠ 16 then .raise .invalidKeyLength e
  else if ksn.length ≠ 10 then .raise .lengthMismatch e
  else
    let tmp := xorBytes (rightHalf key) (ksnMod c.ksnModReading ksn)
    (singleDesEncrypt c tmp (leftHalf key) e).andThen fun enc e1 =>
    .ok (xorBytes (rightHalf key) enc) e1

/-- `basePek(key, ksn)`: the first result is the right half, the second the left (R163). -/
def basePek (c : Config) (key ksn : ByteVec) (e : Engine) : Res ByteVec :=
  (basePekHalf c key ksn e).andThen fun first e1 =>
  (basePekHalf c (xorBytes key variantMask) ksn e1).andThen fun second e2 =>
  .ok (second ++ first) e2

/-- `pinL ‖ pinR`: each half of the key XORed with `PIN_CONST` (R164 step 2, R165). -/
def pinKey (key : ByteVec) : ByteVec :=
  xorBytes (leftHalf key) pinConst ++ xorBytes (rightHalf key) pinConst

/-- `pekWithVariant(key)` (R164). -/
def pekWithVariant (c : Config) (key : ByteVec) (e : Engine) : Res ByteVec :=
  if key.length ≠ 16 then .raise .invalidKeyLength e
  else
    let pinL := xorBytes (leftHalf key) pinConst
    let pinR := xorBytes (rightHalf key) pinConst
    (tripleDesEncrypt c pinL (pinL ++ pinR) e).andThen fun outL e1 =>
    (tripleDesEncrypt c pinR (pinL ++ pinR) e1).andThen fun outR e2 =>
    .ok (outL ++ outR) e2

/-- `pekNoVariant(key)`: no cipher request (R165, conflict C4 of 90_conflicts.md). -/
def pekNoVariant (key : ByteVec) (e : Engine) : Res ByteVec :=
  if key.length ≠ 16 then .raise .invalidKeyLength e else .ok (pinKey key) e

/-- BPEKH (R166). -/
def execBpekh (vd va vb : VIdx) (s : State) : Host.Outcome State Fault Refusal :=
  .next (formVVV (basePekHalf dke) vd va vb s)

/-- BPEK (R167). -/
def execBpek (vd va vb : VIdx) (s : State) : Host.Outcome State Fault Refusal :=
  .next (formVVV (basePek dke) vd va vb s)

/-- PEKV (R168). -/
def execPekv (vd va : VIdx) (s : State) : Host.Outcome State Fault Refusal :=
  .next (formVV (pekWithVariant dke) vd va s)

/-- PEKNV (R169). -/
def execPeknv (vd va : VIdx) (s : State) : Host.Outcome State Fault Refusal :=
  .next (formVV pekNoVariant vd va s)

end Sys2Proof.Machine
end

