-- ==== Sys2Proof/Machine/Housekeeping.lean ====
section
/-! DEFINITION. Housekeeping: ZEROIZE and CLRCNT (45_housekeeping.md R200 to R202). -/

namespace Sys2Proof.Machine

/-- Every vector register and the payload buffer to the empty vector (R201). -/
def eraseBuffers (s : State) : State :=
  { s with v := Vector.replicate nvreg (Buf.ofBytes vcap []), p := Buf.ofBytes pcap [] }

/-- Both request counters to zero (R202). -/
def clearCounters (s : State) : State :=
  { s with eng := { s.eng with sdescnt := 0, tdescnt := 0 } }

/-- ZEROIZE (R201). -/
def execZeroize (s : State) : Host.Outcome State Fault Refusal := .next (formZ eraseBuffers s)

/-- CLRCNT (R202). -/
def execClrcnt (s : State) : Host.Outcome State Fault Refusal := .next (formZ clearCounters s)

end Sys2Proof.Machine
end

