-- ==== Sys2Proof/Machine/Workflow.lean ====
section
/-! DEFINITION. The transaction workflow: ENCD, DECD, DECTRK (44_workflow.md R180 to R186). -/

namespace Sys2Proof.Machine

/-- `workflowDataKey(ksn, ipek)` (R181). -/
def workflowDataKey (c : Config) (ksn ipek : ByteVec) (e : Engine) : Res ByteVec :=
  (basePek c ipek ksn e).andThen fun pek e1 => pekWithVariant c pek e1

/-- `encryptData(ksn, ipek, plaintext)` (R182). -/
def encryptData (c : Config) (ksn ipek plaintext : ByteVec) (e : Engine) : Res ByteVec :=
  (workflowDataKey c ksn ipek e).andThen fun dataKey e1 => tripleDesEncrypt c plaintext dataKey e1

/-- `decryptData(ksn, ipek, ciphertext)` (R183). -/
def decryptData (c : Config) (ksn ipek ciphertext : ByteVec) (e : Engine) : Res ByteVec :=
  (workflowDataKey c ksn ipek e).andThen fun dataKey e1 => tripleDesDecrypt c ciphertext dataKey e1

/-- The body of `decryptTrack` before its errors are masked (R184). -/
def decryptTrackBody (c : Config) (ksn bdk data : ByteVec) (e : Engine) : Res ByteVec :=
  (deriveKey c ksn bdk e).andThen fun sessionKey e1 =>
  (pekNoVariant sessionKey e1).andThen fun dataKey e2 =>
  tripleDesDecrypt c data dataKey e2

/-- `decryptTrack`: every raised error becomes `DecodeFailure` (R184, 60_exceptions.md R234). -/
def decryptTrack (c : Config) (ksn bdk data : ByteVec) (e : Engine) : Res ByteVec :=
  (decryptTrackBody c ksn bdk data e).mask

/-- ENCD (R182). -/
def execEncd (va vb : VIdx) (s : State) : Host.Outcome State Fault Refusal :=
  .next (formSVV (encryptData dke) va vb s)

/-- DECD (R183). -/
def execDecd (va vb : VIdx) (s : State) : Host.Outcome State Fault Refusal :=
  .next (formSVV (decryptData dke) va vb s)

/-- DECTRK (R184). -/
def execDectrk (va vb : VIdx) (s : State) : Host.Outcome State Fault Refusal :=
  .next (formSVV (decryptTrack dke) va vb s)

end Sys2Proof.Machine
end

