-- ==== Sys2Proof/Machine/Dispatch.lean ====
section
/-! DEFINITION. One arm for each command: the column "semantics" of 30_encoding.md R83. -/

namespace Sys2Proof.Machine

/-- Run a well-formed command (30_encoding.md R85). -/
def exec (i : Instr) (s : State) : Host.Outcome State Fault Refusal :=
  match i with
  | .zeroize => Sys2Proof.Machine.execZeroize s
  | .clrcnt => Sys2Proof.Machine.execClrcnt s
  | .vand vd va vb => Sys2Proof.Machine.execVand vd va vb s
  | .vor vd va vb => Sys2Proof.Machine.execVor vd va vb s
  | .vxor vd va vb => Sys2Proof.Machine.execVxor vd va vb s
  | .vsub vd va first last => Sys2Proof.Machine.execVsub vd va first last s
  | .vcat vd va vb => Sys2Proof.Machine.execVcat vd va vb s
  | .vpadl vd va length fill => Sys2Proof.Machine.execVpadl vd va length fill s
  | .vshr vd va n => Sys2Proof.Machine.execVshr vd va n s
  | .genipek vd va vb => Sys2Proof.Machine.execGenipek vd va vb s
  | .derive vd va vb => Sys2Proof.Machine.execDerive vd va vb s
  | .bpekh vd va vb => Sys2Proof.Machine.execBpekh vd va vb s
  | .bpek vd va vb => Sys2Proof.Machine.execBpek vd va vb s
  | .pekv vd va => Sys2Proof.Machine.execPekv vd va s
  | .peknv vd va => Sys2Proof.Machine.execPeknv vd va s
  | .encd va vb => Sys2Proof.Machine.execEncd va vb s
  | .decd va vb => Sys2Proof.Machine.execDecd va vb s
  | .dectrk va vb => Sys2Proof.Machine.execDectrk va vb s

end Sys2Proof.Machine
end

