-- ==== Sys2Proof/Machine/Window.lean ====
section
/-! DEFINITION. The register window: its map, the two host accesses, the execution of a command by
the write to `CMD`, and the reset input (20_memory.md R50 to R61, 30_encoding.md R85,
70_reset_and_hazards.md R260, R261). -/

namespace Sys2Proof.Machine

/-- What an address of the window names (R51). -/
inductive Target
  | cmd
  | errcode
  | esticky
  | sdescnt
  | tdescnt
  | plen
  | id
  | vlen (i : VIdx)
  /-- Data word `k` of vector register `i`. -/
  | vdata (i : VIdx) (k : Nat)
  /-- Data word `k` of the payload buffer. -/
  | pdata (k : Nat)
deriving DecidableEq, Repr

/-- What offset `o` of the block of vector register `i` names (R51). -/
def locateVreg (i : VIdx) (o : Nat) : Option Target :=
  if o = 0 then some (.vlen i) else if 0x20 ≤ o then some (.vdata i ((o - 0x20) / 4)) else none

/-- What an address names; `none` where it is reserved or not a multiple of 4 (R51, R55). -/
def locate (addr : BitVec 12) : Option Target :=
  let a := addr.toNat
  if a % 4 ≠ 0 then none
  else if a = 0x000 then some .cmd
  else if a = 0x004 then some .errcode
  else if a = 0x008 then some .esticky
  else if a = 0x00C then some .sdescnt
  else if a = 0x010 then some .tdescnt
  else if a = 0x014 then some .plen
  else if a = 0x018 then some .id
  else if h : 0x100 ≤ a ∧ a < 0x500 then
    locateVreg ⟨(a - 0x100) / 0x40, by unfold nvreg; omega⟩ ((a - 0x100) % 0x40)
  else if 0x800 ≤ a ∧ a < 0x800 + pcap then some (.pdata ((a - 0x800) / 4))
  else none

/-- The 32-bit value a target reads as (R52, 10_state.md R32). -/
def readTarget (s : State) : Target → Word
  | .cmd => s.cmd
  | .errcode => s.errcode
  | .esticky => s.esticky
  | .sdescnt => s.eng.sdescnt
  | .tdescnt => s.eng.tdescnt
  | .plen => BitVec.ofNat 32 s.p.len
  | .id => idValue
  | .vlen i => BitVec.ofNat 32 (s.vreg i).len
  | .vdata i k => (s.vreg i).word k
  | .pdata k => s.p.word k

/-- What a word access at `addr` of this width names; `none` where it is refused (R55, R56). -/
def accessTarget (addr : BitVec 12) (width : Nat) : Option Target :=
  if width = 4 then locate addr else none

/-- `MemRead(addr, width)`: the data, or `none` for a bus error (R52). -/
def memRead (s : State) (addr : BitVec 12) (width : Nat) : Option Word :=
  (accessTarget addr width).map (readTarget s)

/-- The bus's answer to a read (R52, R56). -/
def readAnswer : Option Word → BusAnswer
  | some w => .data w
  | none => .busError

/-- `execute(w)` (30_encoding.md R85). -/
def execute (w : Word) (s : State) : Host.Outcome State Fault Refusal :=
  match decode w with
  | .ok i => exec i s
  | .error _ => .next (abort .illegalCommand s)

/-- The storing effect of an accepted write to a location other than `CMD`; `none` where the write is
refused: a read-only register, or a length above the capacity (R53, R56). -/
def storeTarget (s : State) (w : Word) : Target → Option State
  | .plen => if w.toNat > pcap then none else some { s with p := s.p.setLen w.toNat }
  | .vlen i => if w.toNat > vcap then none else some (s.setVreg i ((s.vreg i).setLen w.toNat))
  | .vdata i k => some (s.setVreg i ((s.vreg i).setWord k w))
  | .pdata k => some { s with p := s.p.setWord k w }
  | .cmd | .errcode | .esticky | .sdescnt | .tdescnt | .id => none

/-- A refused access changes nothing but the bus's answer (R56). -/
def busRefuse (s : State) : State := { s with bus := .busError }

/-- The write of a command word: stored, executed to completion, and answered normally whether the
command completes or aborts (R53, R58, 60_exceptions.md R232). -/
def writeCmd (w : Word) (s : State) : Host.Outcome State Fault Refusal :=
  execute w { s with cmd := w, bus := .done }

/-- A write to a location other than `CMD` (R53). -/
def writeStore (w : Word) (t : Target) (s : State) : State :=
  match storeTarget s w t with
  | some s' => { s' with bus := .done }
  | none => busRefuse s

/-- `MemWrite(addr, width, w)` (R53). -/
def memWrite (addr : BitVec 12) (width : Nat) (w : Word) (s : State) :
    Host.Outcome State Fault Refusal :=
  match accessTarget addr width with
  | some .cmd => writeCmd w s
  | some t => .next (writeStore w t s)
  | none => .next (busRefuse s)

/-- The reset input: every register at its reset value; the inputs still to come stay
(70_reset_and_hazards.md R260, R261, log 10). -/
def resetBlock (s : State) : State :=
  { State.reset with
    pending := s.pending
    eng := { State.reset.eng with port := s.eng.port } }

/-- One input of the outside. -/
def perform (a : HostInput) (s : State) : Host.Outcome State Fault Refusal :=
  match a with
  | .read addr width => .next { s with bus := readAnswer (memRead s addr width) }
  | .write addr width w => memWrite addr width w s
  | .reset => .next (resetBlock s)

/-- The address of `CMD` (R51). -/
def cmdAddr : BitVec 12 := 0x000

/-- The host access that carries a command word (30_encoding.md R87, the macro `CMD`). -/
def commandWrite (w : Word) : HostInput := .write cmdAddr 4 w

end Sys2Proof.Machine
end

