-- ==== Sys2Proof/Machine/Step.lean ====
section
/-! DEFINITION. One step: the next input of the outside. A command is the data of a host write to
`CMD`; the order of commands is the order of the host's writes (10_state.md R35). -/

namespace Sys2Proof.Machine

/-- One host access (or reset) from the inputs still to come; with none, the block is idle and holds
its state (60_exceptions.md R245). -/
def step (s : State) : Host.Outcome State Fault Refusal :=
  match s.pending with
  | [] => .next s
  | a :: rest => perform a { s with pending := rest }

/-- `s` with the write of this command word to `CMD` as the next host access (log 1). -/
def State.withFetchWord (s : State) (nbits w : Nat) : State :=
  { s with pending := commandWrite (tableWord nbits w) :: s.pending }

end Sys2Proof.Machine
end

