-- ==== Sys2Proof/Machine/Macros.lean ====
section
/-! DEFINITION. The assembler syntax (30_encoding.md R86), the pseudo-instructions and the driver
macros (R87). -/

namespace Sys2Proof.Machine

/-- `VMOV Vd, Va`: copy the value (R87). -/
def pseudoVmov (vd va : VIdx) : Instr := .vshr vd va 0

/-- `VCLR Vd`: every byte of the value to `0x00`, the length kept (R87). -/
def pseudoVclr (vd : VIdx) : Instr := .vxor vd vd vd

/-- `HW addr, w`: one host write (R87). -/
def macroHW (addr : BitVec 12) (w : Word) : HostInput := .write addr 4 w

/-- `HR addr`: one host read (R87). -/
def macroHR (addr : BitVec 12) : HostInput := .read addr 4

/-- Word `k` of a byte vector, padded on the right with `0x00` bytes (R87, 20_memory.md R54). -/
def loadWord (v : ByteVec) (k : Nat) : Word :=
  packWord (v.getD (4 * k) 0) (v.getD (4 * k + 1) 0) (v.getD (4 * k + 2) 0) (v.getD (4 * k + 3) 0)

/-- The data writes of a load at the word addresses from `base` on: `k = 0 .. ceil(len/4) − 1`
(R87). -/
def loadWords (base : Nat) (v : ByteVec) : List HostInput :=
  (List.range ((v.length + 3) / 4)).map fun k =>
    macroHW (BitVec.ofNat 12 (base + 4 * k)) (loadWord v k)

/-- `LDV Vi, <hex bytes>` (R87). -/
def macroLDV (i : VIdx) (v : ByteVec) : List HostInput :=
  macroHW (BitVec.ofNat 12 (0x100 + 0x40 * i)) (BitVec.ofNat 32 v.length) ::
    loadWords (0x120 + 0x40 * i) v

/-- `LDP <hex bytes>` (R87). -/
def macroLDP (v : ByteVec) : List HostInput :=
  macroHW 0x014 (BitVec.ofNat 32 v.length) :: loadWords 0x800 v

/-- `CMD <command>` (R87). -/
def macroCMD (i : Instr) : HostInput := commandWrite (encode i)

/-- A register operand as text (R86). -/
def asmReg (i : VIdx) : String := "V" ++ toString i.val

/-- A mnemonic and its operands, separated by commas (R86). -/
def asmLine (mnemonic : String) (operands : List String) : String :=
  mnemonic ++ " " ++ String.intercalate ", " operands

/-- The fill operand as text (R86). -/
def asmFill : FillByte → String
  | .x00 => "0x00"
  | .xFF => "0xFF"

/-- A command in the assembler syntax (R86). -/
def asmText : Instr → String
  | .zeroize => "ZEROIZE"
  | .clrcnt => "CLRCNT"
  | .vand vd va vb => asmLine "VAND" [asmReg vd, asmReg va, asmReg vb]
  | .vor vd va vb => asmLine "VOR" [asmReg vd, asmReg va, asmReg vb]
  | .vxor vd va vb => asmLine "VXOR" [asmReg vd, asmReg va, asmReg vb]
  | .vsub vd va first last => asmLine "VSUB" [asmReg vd, asmReg va, toString first, toString last]
  | .vcat vd va vb => asmLine "VCAT" [asmReg vd, asmReg va, asmReg vb]
  | .vpadl vd va length fill =>
    asmLine "VPADL" [asmReg vd, asmReg va, toString length, asmFill fill]
  | .vshr vd va n => asmLine "VSHR" [asmReg vd, asmReg va, toString n]
  | .genipek vd va vb => asmLine "GENIPEK" [asmReg vd, asmReg va, asmReg vb]
  | .derive vd va vb => asmLine "DERIVE" [asmReg vd, asmReg va, asmReg vb]
  | .bpekh vd va vb => asmLine "BPEKH" [asmReg vd, asmReg va, asmReg vb]
  | .bpek vd va vb => asmLine "BPEK" [asmReg vd, asmReg va, asmReg vb]
  | .pekv vd va => asmLine "PEKV" [asmReg vd, asmReg va]
  | .peknv vd va => asmLine "PEKNV" [asmReg vd, asmReg va]
  | .encd va vb => asmLine "ENCD" [asmReg va, asmReg vb]
  | .decd va vb => asmLine "DECD" [asmReg va, asmReg vb]
  | .dectrk va vb => asmLine "DECTRK" [asmReg va, asmReg vb]

end Sys2Proof.Machine
end

