-- ==== Sys2Proof/Safety.lean ====
section
/-! DEFINITION. The terms the statements use: the invariant of a run, the state a rule gives after a
command, the environment's answers a command meets, and the values of the key functions written
from the rules' equations, without the sequencer. -/

namespace Sys2Proof.Machine

/-- What holds between commands: lengths within capacity (10_state.md R21, R25), `ERRCODE` a code of
60_exceptions.md R231 (R27), only bits 1..8 of `ESTICKY` ever set (R28), the bit of a failed most
recent command set (R232), and the working registers zero (R33). -/
abbrev State.Inv (s : State) : Prop :=
  (∀ i : VIdx, (s.vreg i).len ≤ vcap) ∧ s.p.len ≤ pcap ∧
  s.errcode.toNat ≤ 8 ∧ s.esticky &&& ~~~0x1FE = 0 ∧
  (s.errcode ≠ 0 → s.esticky.getLsbD s.errcode.toNat = true) ∧
  s.eng.work = Work.zero

/-- "No command has failed since reset" (10_state.md R28). -/
abbrev State.NoFailure (s : State) : Prop := s.esticky = 0

/-- The next `n` requests of the engine are not answered `fail` (41_cipher_port.md R128). -/
abbrev Answered (n : Nat) (e : Engine) : Prop := ∀ a ∈ e.port.take n, a = PortAnswer.answer

/-- The request after `n` answered ones is answered `fail` (41_cipher_port.md R128). -/
abbrev FailsAfter (n : Nat) (e : Engine) : Prop :=
  Answered n e ∧ e.port[n]? = some PortAnswer.fail

/-- The engine after a command that issued `ns` single-DES and `nt` triple-DES requests: counters
advanced (41_cipher_port.md R127), working registers zero (10_state.md R33), one answer of the
environment used for each request. -/
def ranEngine (e : Engine) (ns nt : Nat) : Engine where
  sdescnt := e.sdescnt + BitVec.ofNat 32 ns
  tdescnt := e.tdescnt + BitVec.ofNat 32 nt
  work := Work.zero
  port := e.port.drop (ns + nt)

/-- `s` after a completed command that wrote `r` to `V[vd]` and issued that many requests; nothing
else is changed. -/
def afterV (s : State) (vd : VIdx) (r : ByteVec) (ns nt : Nat) : State :=
  { s with
    v := s.v.set vd.val (Buf.ofBytes vcap r) vd.isLt
    errcode := 0
    eng := ranEngine s.eng ns nt }

/-- `s` after a completed command that wrote `r` to `P`; nothing else is changed. -/
def afterP (s : State) (r : ByteVec) (ns nt : Nat) : State :=
  { s with p := Buf.ofBytes pcap r, errcode := 0, eng := ranEngine s.eng ns nt }

/-- `s` after a command that aborted with this code after issuing that many requests
(60_exceptions.md R232); nothing else is changed. -/
def afterAbort (s : State) (code : Nat) (ns nt : Nat) : State :=
  { s with
    errcode := BitVec.ofNat 32 code
    esticky := s.esticky ||| BitVec.ofNat 32 (2 ^ code)
    eng := ranEngine s.eng ns nt }

/-- The register a command has as its destination (30_encoding.md R81). -/
def destOf : Instr → Option VIdx
  | .zeroize | .clrcnt | .encd _ _ | .decd _ _ | .dectrk _ _ => none
  | .vand vd _ _ | .vor vd _ _ | .vxor vd _ _ | .vcat vd _ _ => some vd
  | .vsub vd _ _ _ | .vpadl vd _ _ _ | .vshr vd _ _ => some vd
  | .genipek vd _ _ | .derive vd _ _ | .bpekh vd _ _ | .bpek vd _ _ => some vd
  | .pekv vd _ | .peknv vd _ => some vd

/-- The commands that may write the payload buffer (10_state.md R25). -/
def touchesPayload : Instr → Bool
  | .zeroize | .encd _ _ | .decd _ _ | .dectrk _ _ => true
  | .clrcnt | .vand _ _ _ | .vor _ _ _ | .vxor _ _ _ | .vcat _ _ _ => false
  | .vsub _ _ _ _ | .vpadl _ _ _ _ | .vshr _ _ _ => false
  | .genipek _ _ _ | .derive _ _ _ | .bpekh _ _ _ | .bpek _ _ _ => false
  | .pekv _ _ | .peknv _ _ => false

/-- The reserved addresses of the register window (20_memory.md R51). -/
abbrev Reserved (addr : BitVec 12) : Prop :=
  (0x01C ≤ addr.toNat ∧ addr.toNat < 0x100) ∨
  (0x100 ≤ addr.toNat ∧ addr.toNat < 0x500 ∧
    4 ≤ (addr.toNat - 0x100) % 0x40 ∧ (addr.toNat - 0x100) % 0x40 < 0x20) ∨
  (0x500 ≤ addr.toNat ∧ addr.toNat < 0x800) ∨ 0x800 + pcap ≤ addr.toNat

/-- The causes of a bus error, complete (20_memory.md R56): width, alignment, a reserved address; for
a write also a read-only register, a `VLEN` above `VCAP`, a `PLEN` above `PCAP`. -/
def RefusedAccess : HostInput → Prop
  | .read addr width => width ≠ 4 ∨ addr.toNat % 4 ≠ 0 ∨ Reserved addr
  | .write addr width w =>
    width ≠ 4 ∨ addr.toNat % 4 ≠ 0 ∨ Reserved addr ∨
    addr.toNat = 0x004 ∨ addr.toNat = 0x008 ∨ addr.toNat = 0x00C ∨ addr.toNat = 0x010 ∨
    addr.toNat = 0x018 ∨
    (0x100 ≤ addr.toNat ∧ addr.toNat < 0x500 ∧ (addr.toNat - 0x100) % 0x40 = 0 ∧ vcap < w.toNat) ∨
    (addr.toNat = 0x014 ∧ pcap < w.toNat)
  | .reset => False

/-- The address of `VLEN_i` (20_memory.md R51). -/
def vlenAddr (i : VIdx) : BitVec 12 := BitVec.ofNat 12 (0x100 + 0x40 * i)

/-- The address of `VDATA_i` word `k` (20_memory.md R51). -/
def vdataAddr (i : VIdx) (k : Nat) : BitVec 12 := BitVec.ofNat 12 (0x120 + 0x40 * i + 4 * k)

/-- The address of `PDATA` word `k` (20_memory.md R51). -/
def pdataAddr (k : Nat) : BitVec 12 := BitVec.ofNat 12 (0x800 + 4 * k)

/-- The number data word `k` of a buffer is: four bytes, big-endian (20_memory.md R54). -/
def wordNumber {cap : Nat} (b : Buf cap) (k : Nat) : Nat :=
  (b.byte (4 * k)).toNat * 2 ^ 24 + (b.byte (4 * k + 1)).toNat * 2 ^ 16 +
    (b.byte (4 * k + 2)).toNat * 2 ^ 8 + (b.byte (4 * k + 3)).toNat

/-- `b'` is `b` with the bytes of word `k` replaced by those of `w`, most significant first, and
nothing else changed (10_state.md R23, 20_memory.md R54). -/
def WordReplaced {cap : Nat} (b b' : Buf cap) (k : Nat) (w : Word) : Prop :=
  b'.len = b.len ∧ ∀ j < cap,
    b'.byte j = if j / 4 = k then BitVec.ofNat 8 (w.toNat / 256 ^ (3 - j % 4)) else b.byte j

/-- `w` is the word of a command with this opcode (30_encoding.md R83), where its immediates fit. -/
def OpIs (i : Instr) (op : Byte) : Prop := i.wf = true → (encode i).extractLsb' 24 8 = op

/-- The rows of spec/opcode_table.json, mask and match, in the table's order. -/
def opcodeRows : List (Word × Word) :=
  [(0xFFFFFFFF, 0x02000000), (0xFFFFFFFF, 0x03000000), (0xFF000FFF, 0x10000000),
   (0xFF000FFF, 0x11000000), (0xFF000FFF, 0x12000000), (0xFF00F000, 0x13000000)] ++
  [(0xFF000FFF, 0x14000000), (0xFF00FEC0, 0x15000000), (0xFF00F000, 0x16000000),
   (0xFF000FFF, 0x20000000), (0xFF000FFF, 0x21000000), (0xFF000FFF, 0x30000000)] ++
  [(0xFF000FFF, 0x31000000), (0xFF00FFFF, 0x32000000), (0xFF00FFFF, 0x33000000),
   (0xFFF00FFF, 0x40000000), (0xFFF00FFF, 0x41000000), (0xFFF00FFF, 0x42000000)]

/-- `core = ksn[0..6] ‖ (ksn[7] AND 0xE0)` (42_key_derivation.md R143). -/
def coreOf (ksn : ByteVec) : ByteVec := ksn.take 7 ++ [ksn.getD 7 0 &&& 0xE0]

/-- A 16- or 24-byte BDK with `C0C0C0C0 00000000` XORed into each 8-byte part (42_key_derivation.md
R142). -/
def variantOf (key : ByteVec) : ByteVec :=
  key.mapIdx fun i b => if i % 8 < 4 then b ^^^ 0xC0 else b

/-- The 24-byte key of a triple-DES request (41_cipher_port.md R125). -/
def key24Of (key : ByteVec) : ByteVec := (key ++ key).take 24

/-- The IPEK, from the cipher's functions alone (42_key_derivation.md R143). -/
def ipekOf (c : Cipher) (ksn bdk : ByteVec) : ByteVec :=
  c.tdesCbcE (key24Of bdk) (coreOf ksn) ++ c.tdesCbcE (key24Of (variantOf bdk)) (coreOf ksn)

/-- `basePekHalf'(k, x) = k[8..15] XOR DES_E(k[0..7], k[8..15] XOR x)` (43_key_construction.md
R170). -/
def halfOf (c : Cipher) (k x : ByteVec) : ByteVec :=
  xorBytes (k.drop 8) (c.desE (k.take 8) (xorBytes (k.drop 8) x))

/-- One key update, `basePekHalf'(k XOR VARIANT_MASK, x) ‖ basePekHalf'(k, x)`
(43_key_construction.md R170). -/
def updateOf (c : Cipher) (k x : ByteVec) : ByteVec := halfOf c (variantOf k) x ++ halfOf c k x

/-- The register value of the update for counter bit `k`: the KSN's low 64 bits with the bits below
`k` zero (42_key_derivation.md R146, reading note (ii)). -/
def prefixOf (ksn : ByteVec) (k : Nat) : ByteVec := encBytes 8 (beInt ksn / 2 ^ k * 2 ^ k)

/-- The derived key: one update for each set counter bit, from bit 20 down to bit 0
(42_key_derivation.md R146). -/
def derivedOf (c : Cipher) (ksn bdk : ByteVec) : ByteVec :=
  (List.range 21).foldl
    (fun key j => if (beInt ksn).testBit (20 - j) then updateOf c key (prefixOf ksn (20 - j)) else key)
    (ipekOf c ksn bdk)

/-- The number of counter bits that are set (42_key_derivation.md R149). -/
def counterWeight (ksn : ByteVec) : Nat := hammingWeight 21 (beInt ksn)

/-- The base-key construction under reading A (43_key_construction.md R163, R170). -/
def basePekOf (c : Cipher) (key ksn : ByteVec) : ByteVec := updateOf c key (ksn.drop 2)

/-- `pinL ‖ pinR`: bytes 5 and 13 complemented (43_key_construction.md R164, R165). -/
def pinKeyOf (key : ByteVec) : ByteVec :=
  key.mapIdx fun i b => if i = 5 ∨ i = 13 then ~~~b else b

/-- The variant construction (43_key_construction.md R164). -/
def pekVariantOf (c : Cipher) (key : ByteVec) : ByteVec :=
  c.tdesCbcE (key24Of (pinKeyOf key)) ((pinKeyOf key).take 8) ++
    c.tdesCbcE (key24Of (pinKeyOf key)) ((pinKeyOf key).drop 8)

/-- The workflow's data key (44_workflow.md R181). -/
def dataKeyOf (c : Cipher) (ksn ipek : ByteVec) : ByteVec := pekVariantOf c (basePekOf c ipek ksn)

end Sys2Proof.Machine
end

