-- ==== Sys2Proof/Certificates/Slice0/Obligations.lean ====
section
/-! DEFINITION. The statements for the provers. Each docstring says which rule of spec/ it
formalises; where a clause rests on the model's own choice it names the log entry. -/

section

open Sys2Proof Sys2Proof.Machine

/-! ## Reset and the register window -/

/-- R38: every register is zero after reset, every vector value is empty, `ID` reads its constant;
an element-wise command on two empty vectors gives the empty vector, and GENIPEK on an empty KSN
aborts with `LengthMismatch` (3). -/
def Obligations.ResetLeavesEveryRegisterZero : Prop :=
  (∀ i : VIdx, (State.reset.vreg i).len = 0 ∧ (∀ k < vcap, (State.reset.vreg i).byte k = 0) ∧
    State.reset.vval i = []) ∧
  State.reset.p.len = 0 ∧ (∀ k < pcap, State.reset.p.byte k = 0) ∧
  State.reset.cmd = 0 ∧ State.reset.errcode = 0 ∧ State.reset.esticky = 0 ∧
  State.reset.eng.sdescnt = 0 ∧ State.reset.eng.tdescnt = 0 ∧
  memRead State.reset 0x018 4 = some 0x444B4501 ∧
  State.reset.eng.work.r3 = fillBytes 8 0 ∧ State.reset.eng.work.r8 = fillBytes 8 0 ∧
  State.reset.eng.work.sr = fillBytes 8 0 ∧ State.reset.eng.work.curkey = fillBytes 16 0 ∧
  State.reset.eng.work.reg1 = fillBytes 8 0 ∧ State.reset.eng.work.reg2 = fillBytes 8 0 ∧
  ∀ vd va vb : VIdx,
    exec (.vand vd va vb) State.reset = .next (afterV State.reset vd [] 0 0) ∧
    exec (.vor vd va vb) State.reset = .next (afterV State.reset vd [] 0 0) ∧
    exec (.vxor vd va vb) State.reset = .next (afterV State.reset vd [] 0 0) ∧
    exec (.genipek vd va vb) State.reset = .next (afterAbort State.reset 3 0 0)

/-- R260, R261: the reset input leaves the block as after reset. The model's choice (log 10): the
inputs still to come stay, and the bus shows no answer. -/
def Obligations.ResetInputRestoresResetState : Prop :=
  ∀ (s : State) (rest : List HostInput), s.pending = .reset :: rest →
    step s = .next { State.reset with
      pending := rest, eng := { State.reset.eng with port := s.eng.port } }

/-- R31: `ID` is read-only and constant. -/
def Obligations.IdRegisterIsConstant : Prop :=
  ∀ s : State, memRead s 0x018 4 = some 0x444B4501 ∧
    ∀ (w : Word) (rest : List HostInput), s.pending = .write 0x018 4 w :: rest →
      step s = .next { s with pending := rest, bus := .busError }

/-- R51, R52, R54: what every listed address of the window reads as. -/
def Obligations.WindowReadsByTheMap : Prop :=
  ∀ s : State,
    memRead s 0x000 4 = some s.cmd ∧ memRead s 0x004 4 = some s.errcode ∧
    memRead s 0x008 4 = some s.esticky ∧ memRead s 0x00C 4 = some s.eng.sdescnt ∧
    memRead s 0x010 4 = some s.eng.tdescnt ∧
    memRead s 0x014 4 = some (BitVec.ofNat 32 s.p.len) ∧
    memRead s 0x018 4 = some 0x444B4501 ∧
    (∀ i : VIdx, memRead s (vlenAddr i) 4 = some (BitVec.ofNat 32 (s.vreg i).len)) ∧
    (∀ (i : VIdx) (k : Nat), k < 8 →
      ∃ w, memRead s (vdataAddr i k) 4 = some w ∧ w.toNat = wordNumber (s.vreg i) k) ∧
    (∀ k : Nat, k < pcap / 4 →
      ∃ w, memRead s (pdataAddr k) 4 = some w ∧ w.toNat = wordNumber s.p k)

/-- R52: a read changes no state of the block; the model records only the bus's answer (log 2). -/
def Obligations.ReadChangesNoState : Prop :=
  ∀ (s : State) (addr : BitVec 12) (width : Nat) (rest : List HostInput),
    s.pending = .read addr width :: rest →
      (∀ w, memRead s addr width = some w →
        step s = .next { s with pending := rest, bus := .data w }) ∧
      (memRead s addr width = none → step s = .next { s with pending := rest, bus := .busError })

/-- R56: a refused access changes no state; the causes are complete. -/
def Obligations.RefusedAccessChangesNothing : Prop :=
  ∀ (s : State) (a : HostInput) (rest : List HostInput), s.pending = a :: rest →
    (RefusedAccess a → step s = .next { s with pending := rest, bus := .busError }) ∧
    (¬ RefusedAccess a → ∃ t, step s = .next t ∧ t.bus ≠ .busError)

/-- R23, R25, R53, R54: an accepted write to a length changes that length and nothing else, one to a
data word changes its four bytes and nothing else. -/
def Obligations.HostWriteStoresOnlyItsLocation : Prop :=
  ∀ (s : State) (w : Word) (rest : List HostInput),
    (∀ i : VIdx, s.pending = .write (vlenAddr i) 4 w :: rest → w.toNat ≤ vcap →
      step s = .next { s with
        v := s.v.set i.val { s.vreg i with len := w.toNat } i.isLt, pending := rest, bus := .done }) ∧
    (s.pending = .write 0x014 4 w :: rest → w.toNat ≤ pcap →
      step s = .next { s with p := { s.p with len := w.toNat }, pending := rest, bus := .done }) ∧
    (∀ (i : VIdx) (k : Nat), k < 8 → s.pending = .write (vdataAddr i k) 4 w :: rest →
      ∃ b, WordReplaced (s.vreg i) b k w ∧
        step s = .next { s with v := s.v.set i.val b i.isLt, pending := rest, bus := .done }) ∧
    (∀ k : Nat, k < pcap / 4 → s.pending = .write (pdataAddr k) 4 w :: rest →
      ∃ b, WordReplaced s.p b k w ∧
        step s = .next { s with p := b, pending := rest, bus := .done })

/-- R59 (b): a read returns the value of the write before it, for every location that accepted the
write, `CMD` among them (R26). -/
def Obligations.ReadReturnsLatestWrite : Prop :=
  ∀ (s t : State) (addr : BitVec 12) (w : Word) (rest : List HostInput),
    s.pending = .write addr 4 w :: .read addr 4 :: rest → step s = .next t → t.bus = .done →
      step t = .next { t with pending := rest, bus := .data w }

/-! ## Decoding, and the step that runs a command -/

/-- R80 to R84, R86: words written out from the encoding, and the command each decodes to, or that it
decodes to none. Which `DecodeError` names the rejection is the model's choice (log 16): the spec
gives every such word the one outcome `IllegalCommand`, which `IllegalWordAborts` states. -/
def Obligations.DecodeSampleWords : Prop :=
  decode 0x02000000 = .ok .zeroize ∧ decode 0x03000000 = .ok .clrcnt ∧
  decode 0x12312000 = .ok (.vxor 3 1 2) ∧ decode 0x13100089 = .ok (.vsub 1 0 2 9) ∧
  decode 0x1510010A = .ok (.vpadl 1 0 10 .xFF) ∧ decode 0x16100015 = .ok (.vshr 1 0 21) ∧
  decode 0x21201000 = .ok (.derive 2 0 1) ∧ decode 0x32430000 = .ok (.pekv 4 3) ∧
  decode 0x40001000 = .ok (.encd 0 1) ∧
  decode 0x00000000 = .error (.unassignedOpcode 0x00) ∧
  decode 0x12312001 = .error (.unusedFieldNonzero 0x12) ∧
  decode 0x1510004A = .error (.unusedImmediateBit 0x15)

/-- R80 to R83, R86: every well-formed command is read back from its word. -/
def Obligations.DecodeOfEncodeIsTheInstruction : Prop :=
  ∀ i : Instr, i.wf = true → decode (encode i) = .ok i

/-- R80 to R84: every word that decodes is the word of the well-formed command it decodes to. -/
def Obligations.EncodeOfDecodeIsTheWord : Prop :=
  ∀ (w : Word) (i : Instr), decode w = .ok i → i.wf = true ∧ encode i = w

/-- R84, with the masks of spec/opcode_table.json: a word is well-formed exactly when it matches a
row, and it never matches two. -/
def Obligations.WordsDecodeExactlyByTheTable : Prop :=
  ∀ w : Word,
    ((∃ i, decode w = .ok i) ↔ ∃ row ∈ opcodeRows, w &&& row.1 = row.2) ∧
    ∀ (j k : Nat) (r q : Word × Word), opcodeRows[j]? = some r → opcodeRows[k]? = some q →
      w &&& r.1 = r.2 → w &&& q.1 = q.2 → j = k

/-- R84, R85: an illegal word aborts with `IllegalCommand` (7) and changes nothing else. -/
def Obligations.IllegalWordAborts : Prop :=
  ∀ (s : State) (w : Word) (d : DecodeError) (rest : List HostInput),
    s.pending = commandWrite w :: rest → decode w = .error d →
      step s = .next (afterAbort { s with pending := rest, cmd := w, bus := .done } 7 0 0)

/-- R26, R53, R85: the write of a word that decodes to `i` stores the word, is answered normally,
and runs `i`. -/
def Obligations.StepRunsTheDecodedCommand : Prop :=
  ∀ (s : State) (w : Word) (i : Instr) (rest : List HostInput),
    s.pending = commandWrite w :: rest → decode w = .ok i →
      step s = exec i { s with pending := rest, cmd := w, bus := .done }

/-- R85 ("every 32-bit word gets exactly one outcome") and 93_implementation_defined.md ("no command
and no host access can hang the block"): every step of every state answers a next state. -/
def Obligations.EveryStepAnswersNext : Prop := ∀ s : State, ∃ t, step s = .next t

/-! ## The abort and the status registers -/

/-- R232: after a command that failed, the state is the state before it but for `CMD`, `ERRCODE`,
`ESTICKY`, the counters' increments for the requests issued, and the zeroed working registers. -/
def Obligations.AbortIsPrecise : Prop :=
  ∀ (s t : State) (w : Word) (rest : List HostInput),
    s.pending = commandWrite w :: rest → step s = .next t → t.errcode ≠ 0 →
      ∃ code ns nt, 1 ≤ code ∧ code ≤ 8 ∧
        t = afterAbort { s with pending := rest, cmd := w, bus := .done } code ns nt

/-- R28: no input but a reset clears a bit of `ESTICKY`. -/
def Obligations.EstickyOnlyGrows : Prop :=
  ∀ s t : State, s.pending.head? ≠ some .reset → step s = .next t →
    s.esticky &&& t.esticky = s.esticky

/-- R28: `ESTICKY = 0` after a step says that none had failed before and that the command of this
step, if it carried one, completed. -/
def Obligations.ZeroEstickyMeansNoFailure : Prop :=
  ∀ s t : State, s.pending.head? ≠ some .reset → step s = .next t → t.NoFailure →
    s.NoFailure ∧
    ∀ (w : Word) (rest : List HostInput), s.pending = commandWrite w :: rest → t.errcode = 0

/-- R231: the code and the sticky bit of each error. -/
def Obligations.ErrorCodesAreTheTable : Prop :=
  ∀ s : State,
    (abort .invalidKeyLength s).errcode = 1 ∧ (abort .invalidBlockLength s).errcode = 2 ∧
    (abort .lengthMismatch s).errcode = 3 ∧ (abort .indexOutOfRange s).errcode = 4 ∧
    (abort .cipherFailure s).errcode = 5 ∧ (abort .decodeFailure s).errcode = 6 ∧
    (abort .illegalCommand s).errcode = 7 ∧ (abort .vectorOverflow s).errcode = 8 ∧
    (complete s).errcode = 0 ∧ (complete s).esticky = s.esticky ∧
    (abort .invalidKeyLength s).esticky = s.esticky ||| 0x002 ∧
    (abort .invalidBlockLength s).esticky = s.esticky ||| 0x004 ∧
    (abort .lengthMismatch s).esticky = s.esticky ||| 0x008 ∧
    (abort .indexOutOfRange s).esticky = s.esticky ||| 0x010 ∧
    (abort .cipherFailure s).esticky = s.esticky ||| 0x020 ∧
    (abort .decodeFailure s).esticky = s.esticky ||| 0x040 ∧
    (abort .illegalCommand s).esticky = s.esticky ||| 0x080 ∧
    (abort .vectorOverflow s).esticky = s.esticky ||| 0x100

/-! ## Every command -/

/-- R22, R25: a command's write leaves the value, its length, zeros in the slack, and every other
register as it was. -/
def Obligations.CommandWriteLeavesNoStaleByte : Prop :=
  ∀ (s : State) (r : ByteVec) (ns nt : Nat),
    (∀ i : VIdx, r.length ≤ vcap →
      (afterV s i r ns nt).vval i = r ∧ ((afterV s i r ns nt).vreg i).len = r.length ∧
      (∀ k, r.length ≤ k → k < vcap → ((afterV s i r ns nt).vreg i).byte k = 0) ∧
      ∀ j : VIdx, j ≠ i → (afterV s i r ns nt).vreg j = s.vreg j) ∧
    (r.length ≤ pcap →
      (afterP s r ns nt).pval = r ∧ (afterP s r ns nt).p.len = r.length ∧
      (∀ k, r.length ≤ k → k < pcap → (afterP s r ns nt).p.byte k = 0) ∧
      ∀ j : VIdx, (afterP s r ns nt).vreg j = s.vreg j)

/-- R22, R25, R26, R33: a command changes no vector register but its destination (ZEROIZE changes
all), the payload only if it is one of the four that touch it, and neither `CMD` nor the inputs nor
the bus; it ends with the working registers zero. -/
def Obligations.OnlyTheDestinationChanges : Prop :=
  ∀ (i : Instr) (s t : State), exec i s = .next t →
    (i ≠ .zeroize → ∀ r : VIdx, destOf i ≠ some r → t.vreg r = s.vreg r) ∧
    (touchesPayload i = false → t.p = s.p) ∧
    t.cmd = s.cmd ∧ t.pending = s.pending ∧ t.bus = s.bus ∧ t.eng.work = Work.zero

/-- R33, R100: what a command computes depends on the values of the registers, the counters and the
environment's answers: not on slack bytes and not on what the working registers held. -/
def Obligations.ResultsDependOnValuesOnly : Prop :=
  ∀ (i : Instr) (s u t x : State),
    (∀ r : VIdx, s.vval r = u.vval r) → s.pval = u.pval → s.eng.clear = u.eng.clear →
    exec i s = .next t → exec i u = .next x →
      (∀ r : VIdx, t.vval r = x.vval r) ∧ t.pval = x.pval ∧ t.errcode = x.errcode ∧ t.eng = x.eng

/-! ## The byte-vector unit -/

/-- The rule of an element-wise command with opcode `op` (40_bytevector_alu.md R101 to R103). -/
def Sys2Proof.ElementwiseRule (mk : VIdx → VIdx → VIdx → Instr) (op : Byte) (f : Byte → Byte → Byte) : Prop :=
  ∀ (vd va vb : VIdx) (s : State),
    OpIs (mk vd va vb) op ∧
    ((s.vval va).length = (s.vval vb).length →
      ∃ r : ByteVec, r.length = (s.vval va).length ∧
        (∀ k < r.length, r.getD k 0 = f ((s.vval va).getD k 0) ((s.vval vb).getD k 0)) ∧
        exec (mk vd va vb) s = .next (afterV s vd r 0 0)) ∧
    ((s.vval va).length ≠ (s.vval vb).length →
      exec (mk vd va vb) s = .next (afterAbort s 3 0 0))

/-- R101, R102, R103: VAND, VOR, VXOR. -/
def Obligations.ElementwiseCommands : Prop :=
  ElementwiseRule .vand 0x10 (· &&& ·) ∧ ElementwiseRule .vor 0x11 (· ||| ·) ∧
  ElementwiseRule .vxor 0x12 (· ^^^ ·)

/-- R104: VSUB. -/
def Obligations.VsubSubrange : Prop :=
  ∀ (vd va : VIdx) (first last : Nat) (s : State),
    OpIs (.vsub vd va first last) 0x13 ∧
    (first ≤ last → last < (s.vval va).length →
      ∃ r : ByteVec, r.length = last - first + 1 ∧
        (∀ k < r.length, r.getD k 0 = (s.vval va).getD (first + k) 0) ∧
        exec (.vsub vd va first last) s = .next (afterV s vd r 0 0)) ∧
    (first > last ∨ last ≥ (s.vval va).length →
      exec (.vsub vd va first last) s = .next (afterAbort s 4 0 0))

/-- R105: VCAT. -/
def Obligations.VcatConcatenation : Prop :=
  ∀ (vd va vb : VIdx) (s : State),
    OpIs (.vcat vd va vb) 0x14 ∧
    ((s.vval va).length + (s.vval vb).length ≤ 32 →
      ∃ r : ByteVec, r.length = (s.vval va).length + (s.vval vb).length ∧
        (∀ k < (s.vval va).length, r.getD k 0 = (s.vval va).getD k 0) ∧
        (∀ k < (s.vval vb).length, r.getD ((s.vval va).length + k) 0 = (s.vval vb).getD k 0) ∧
        exec (.vcat vd va vb) s = .next (afterV s vd r 0 0)) ∧
    ((s.vval va).length + (s.vval vb).length > 32 →
      exec (.vcat vd va vb) s = .next (afterAbort s 8 0 0))

/-- R106: VPADL. -/
def Obligations.VpadlPadding : Prop :=
  ∀ (vd va : VIdx) (length : Nat) (fill : FillByte) (s : State),
    OpIs (.vpadl vd va length fill) 0x15 ∧
    (length ≤ 32 → (s.vval va).length ≤ length →
      ∃ r : ByteVec, r.length = length ∧
        (∀ k < length - (s.vval va).length,
          r.getD k 0 = (match fill with | .x00 => 0x00 | .xFF => 0xFF)) ∧
        (∀ k < (s.vval va).length,
          r.getD (length - (s.vval va).length + k) 0 = (s.vval va).getD k 0) ∧
        exec (.vpadl vd va length fill) s = .next (afterV s vd r 0 0)) ∧
    (length > 32 → exec (.vpadl vd va length fill) s = .next (afterAbort s 8 0 0)) ∧
    (length ≤ 32 → (s.vval va).length > length →
      exec (.vpadl vd va length fill) s = .next (afterAbort s 4 0 0))

/-- R107, the integer form: VSHR is floor division by `2^n` at the old length; it never aborts. -/
def Obligations.VshrIsFloorDivision : Prop :=
  ∀ (vd va : VIdx) (n : Nat) (s : State),
    OpIs (.vshr vd va n) 0x16 ∧
    ∃ r : ByteVec, r.length = (s.vval va).length ∧ beInt r = beInt (s.vval va) / 2 ^ n ∧
      exec (.vshr vd va n) s = .next (afterV s vd r 0 0)

/-- R107, byte by byte, with `q = n div 8` and `m = n mod 8`. -/
def Obligations.VshrByteByByte : Prop :=
  ∀ (vd va : VIdx) (q m : Nat) (s : State), m < 8 →
    ∃ r : ByteVec, r.length = (s.vval va).length ∧
      (∀ i < q, i < r.length → r.getD i 0 = 0) ∧
      (∀ i, q ≤ i → i < r.length →
        r.getD i 0 = ((s.vval va).getD (i - q) 0 >>> m) |||
          ((if q + 1 ≤ i ∧ 0 < m then (s.vval va).getD (i - q - 1) 0 else 0) <<< (8 - m))) ∧
      exec (.vshr vd va (8 * q + m)) s = .next (afterV s vd r 0 0)

/-- R108: two shifts are one shift by the sum. -/
def Obligations.ShiftsCompose : Prop :=
  ∀ (vd va : VIdx) (m n : Nat) (s t : State), exec (.vshr vd va m) s = .next t →
    exec (.vshr vd vd n) t = exec (.vshr vd va (m + n)) s

/-- R108: XOR with the same vector twice restores the value; the front of a concatenation is its
left part. -/
def Obligations.ByteUnitInverses : Prop :=
  ∀ (vd va vb : VIdx) (s t : State),
    (vd ≠ vb → (s.vval va).length = (s.vval vb).length → exec (.vxor vd va vb) s = .next t →
      ∃ u, exec (.vxor vd vd vb) t = .next u ∧ u.errcode = 0 ∧ u.vval vd = s.vval va) ∧
    (0 < (s.vval va).length → (s.vval va).length + (s.vval vb).length ≤ 32 →
      exec (.vcat vd va vb) s = .next t →
      ∃ u, exec (.vsub vd vd 0 ((s.vval va).length - 1)) t = .next u ∧ u.errcode = 0 ∧
        u.vval vd = s.vval va)

/-! ## Key derivation -/

/-- R143, R144: GENIPEK, its errors in their order, its requests and its result. -/
def Obligations.GenipekResult : Prop :=
  ∀ (vd va vb : VIdx) (s : State),
    OpIs (.genipek vd va vb) 0x20 ∧
    ((s.vval va).length ≠ 10 → exec (.genipek vd va vb) s = .next (afterAbort s 3 0 0)) ∧
    ((s.vval va).length = 10 → (s.vval vb).length ≠ 16 → (s.vval vb).length ≠ 24 →
      exec (.genipek vd va vb) s = .next (afterAbort s 1 0 0)) ∧
    ((s.vval va).length = 10 → ((s.vval vb).length = 16 ∨ (s.vval vb).length = 24) →
      (Answered 2 s.eng → exec (.genipek vd va vb) s =
        .next (afterV s vd (ipekOf dke.cipher (s.vval va) (s.vval vb)) 0 2)) ∧
      (FailsAfter 0 s.eng → exec (.genipek vd va vb) s = .next (afterAbort s 5 0 1)) ∧
      (FailsAfter 1 s.eng → exec (.genipek vd va vb) s = .next (afterAbort s 5 0 2)))

/-- R148: the IPEK does not depend on the transaction counter, whatever the cipher. -/
def Obligations.IpekIgnoresTheCounter : Prop :=
  ∀ (c : Config) (ksn ksn' bdk : ByteVec) (e : Engine), ksn.length = 10 → ksn'.length = 10 →
    beInt ksn / 2 ^ 21 = beInt ksn' / 2 ^ 21 →
    generateIpek c ksn bdk e = generateIpek c ksn' bdk e

/-- R144, corner case: a 24-byte BDK `K1‖K2‖K1` gives the IPEK of the 16-byte BDK `K1‖K2`. -/
def Obligations.IpekOfDoubledKey : Prop :=
  ∀ (c : Config) (ksn k1 k2 : ByteVec) (e : Engine), k1.length = 8 → k2.length = 8 →
    generateIpek c ksn (k1 ++ k2 ++ k1) e = generateIpek c ksn (k1 ++ k2) e

/-- R146, R147: a DERIVE whose requests are all answered writes the derived key: one key update for
each set counter bit, most significant first; two triple-DES and `2·hw` single-DES requests. -/
def Obligations.DeriveResult : Prop :=
  ∀ (vd va vb : VIdx) (s : State),
    (s.vval va).length = 10 → ((s.vval vb).length = 16 ∨ (s.vval vb).length = 24) →
    Answered (2 + 2 * counterWeight (s.vval va)) s.eng →
    exec (.derive vd va vb) s =
      .next (afterV s vd (derivedOf dke.cipher (s.vval va) (s.vval vb))
        (2 * counterWeight (s.vval va)) 2)

/-- R147: DERIVE's errors in their order, with the requests issued before each. -/
def Obligations.DeriveErrors : Prop :=
  ∀ (vd va vb : VIdx) (s : State),
    OpIs (.derive vd va vb) 0x21 ∧
    ((s.vval va).length ≠ 10 → exec (.derive vd va vb) s = .next (afterAbort s 3 0 0)) ∧
    ((s.vval va).length = 10 → (s.vval vb).length ≠ 16 → (s.vval vb).length ≠ 24 →
      exec (.derive vd va vb) s = .next (afterAbort s 1 0 0)) ∧
    ((s.vval va).length = 10 → ((s.vval vb).length = 16 ∨ (s.vval vb).length = 24) →
      (FailsAfter 0 s.eng → exec (.derive vd va vb) s = .next (afterAbort s 5 0 1)) ∧
      ∀ m, 1 ≤ m → m < 2 + 2 * counterWeight (s.vval va) → FailsAfter m s.eng →
        exec (.derive vd va vb) s = .next (afterAbort s 5 (m - 1) 2))

/-- R150: with a transaction counter of 0, DERIVE does what GENIPEK does. -/
def Obligations.DeriveAtCounterZeroIsGenipek : Prop :=
  ∀ (vd va vb : VIdx) (s : State), beInt (s.vval va) % 2 ^ 21 = 0 →
    exec (.derive vd va vb) s = exec (.genipek vd va vb) s

/-- R149: a completed derivation issued exactly two single-DES requests for each set counter bit and
two triple-DES requests, whatever the cipher; at most 42 single-DES requests. -/
def Obligations.LoopCountIsTwiceTheWeight : Prop :=
  (∀ (c : Config) (ksn bdk r : ByteVec) (e e' : Engine), deriveKey c ksn bdk e = .ok r e' →
    e'.sdescnt = e.sdescnt + BitVec.ofNat 32 (2 * counterWeight ksn) ∧
    e'.tdescnt = e.tdescnt + 2) ∧
  (∀ (vd va vb : VIdx) (s t : State), exec (.derive vd va vb) s = .next t → t.errcode = 0 →
    t.eng.sdescnt = s.eng.sdescnt + BitVec.ofNat 32 (2 * counterWeight (s.vval va)) ∧
    t.eng.tdescnt = s.eng.tdescnt + 2) ∧
  ∀ ksn : ByteVec, 2 * counterWeight ksn ≤ 42

/-- R170: under reading A (log 6) and any lawful cipher that does not fail, for a KSN whose counter
has exactly one bit set, the base-key construction on the IPEK is the derived key. -/
def Obligations.OneBitCounterDerivesTheBasePek : Prop :=
  ∀ (c : Config) (ksn bdk : ByteVec) (e : Engine) (k : Nat),
    c.ksnModReading = .a → c.cipherMayFail = false → c.cipher.Lawful →
    ksn.length = 10 → (bdk.length = 16 ∨ bdk.length = 24) →
    k < 21 → beInt ksn % 2 ^ 21 = 2 ^ k →
    ∃ ipek r e1 e2 e3, generateIpek c ksn bdk e = .ok ipek e1 ∧
      basePek c ipek ksn e1 = .ok r e2 ∧ deriveKey c ksn bdk e = .ok r e3

/-! ## PIN/data key construction -/

/-- R162, R166: BPEKH (reading A of `ksnMod`, log 6). -/
def Obligations.BpekhResult : Prop :=
  ∀ (vd va vb : VIdx) (s : State),
    OpIs (.bpekh vd va vb) 0x30 ∧
    ((s.vval va).length ≠ 16 → exec (.bpekh vd va vb) s = .next (afterAbort s 1 0 0)) ∧
    ((s.vval va).length = 16 → (s.vval vb).length ≠ 10 →
      exec (.bpekh vd va vb) s = .next (afterAbort s 3 0 0)) ∧
    ((s.vval va).length = 16 → (s.vval vb).length = 10 →
      (Answered 1 s.eng → exec (.bpekh vd va vb) s =
        .next (afterV s vd (halfOf dke.cipher (s.vval va) ((s.vval vb).drop 2)) 1 0)) ∧
      (FailsAfter 0 s.eng → exec (.bpekh vd va vb) s = .next (afterAbort s 5 1 0)))

/-- R163, R167: BPEK (reading A of `ksnMod`, log 6). -/
def Obligations.BpekResult : Prop :=
  ∀ (vd va vb : VIdx) (s : State),
    OpIs (.bpek vd va vb) 0x31 ∧
    ((s.vval va).length ≠ 16 → exec (.bpek vd va vb) s = .next (afterAbort s 1 0 0)) ∧
    ((s.vval va).length = 16 → (s.vval vb).length ≠ 10 →
      exec (.bpek vd va vb) s = .next (afterAbort s 3 0 0)) ∧
    ((s.vval va).length = 16 → (s.vval vb).length = 10 →
      (Answered 2 s.eng → exec (.bpek vd va vb) s =
        .next (afterV s vd (basePekOf dke.cipher (s.vval va) (s.vval vb)) 2 0)) ∧
      (FailsAfter 0 s.eng → exec (.bpek vd va vb) s = .next (afterAbort s 5 1 0)) ∧
      (FailsAfter 1 s.eng → exec (.bpek vd va vb) s = .next (afterAbort s 5 2 0)))

/-- R164, R168: PEKV. -/
def Obligations.PekvResult : Prop :=
  ∀ (vd va : VIdx) (s : State),
    OpIs (.pekv vd va) 0x32 ∧
    ((s.vval va).length ≠ 16 → exec (.pekv vd va) s = .next (afterAbort s 1 0 0)) ∧
    ((s.vval va).length = 16 →
      (Answered 2 s.eng → exec (.pekv vd va) s =
        .next (afterV s vd (pekVariantOf dke.cipher (s.vval va)) 0 2)) ∧
      (FailsAfter 0 s.eng → exec (.pekv vd va) s = .next (afterAbort s 5 0 1)) ∧
      (FailsAfter 1 s.eng → exec (.pekv vd va) s = .next (afterAbort s 5 0 2)))

/-- R165, R169: PEKNV issues no request, whatever the environment would answer. -/
def Obligations.PeknvResult : Prop :=
  ∀ (vd va : VIdx) (s : State),
    OpIs (.peknv vd va) 0x33 ∧
    ((s.vval va).length ≠ 16 → exec (.peknv vd va) s = .next (afterAbort s 1 0 0)) ∧
    ((s.vval va).length = 16 →
      exec (.peknv vd va) s = .next (afterV s vd (pinKeyOf (s.vval va)) 0 0))

/-! ## The workflow -/

/-- The rule ENCD and DECD share, with the payload function `f` (44_workflow.md R182, R183). -/
def Sys2Proof.WorkflowRule (mk : VIdx → VIdx → Instr) (op : Byte) (f : ByteVec → ByteVec → ByteVec) : Prop :=
  ∀ (va vb : VIdx) (s : State),
    OpIs (mk va vb) op ∧
    ((s.vval vb).length ≠ 16 → exec (mk va vb) s = .next (afterAbort s 1 0 0)) ∧
    ((s.vval vb).length = 16 → (s.vval va).length ≠ 10 →
      exec (mk va vb) s = .next (afterAbort s 3 0 0)) ∧
    ((s.vval vb).length = 16 → (s.vval va).length = 10 →
      (∀ m < 4, FailsAfter m s.eng →
        exec (mk va vb) s = .next (afterAbort s 5 (min (m + 1) 2) (m - 1))) ∧
      (s.pval.length % 8 ≠ 0 → Answered 4 s.eng →
        exec (mk va vb) s = .next (afterAbort s 2 2 2)) ∧
      (s.pval.length % 8 = 0 → FailsAfter 4 s.eng →
        exec (mk va vb) s = .next (afterAbort s 5 2 3)) ∧
      (s.pval.length % 8 = 0 → Answered 5 s.eng → exec (mk va vb) s =
        .next (afterP s (f (key24Of (dataKeyOf dke.cipher (s.vval va) (s.vval vb))) s.pval) 2 3)))

/-- R181, R182: ENCD. -/
def Obligations.EncdResult : Prop := WorkflowRule .encd 0x40 dke.cipher.tdesCbcE

/-- R181, R183: DECD. -/
def Obligations.DecdResult : Prop := WorkflowRule .decd 0x41 dke.cipher.tdesCbcD

/-- R184: DECTRK; every error is `DecodeFailure` (6), with the counters showing how far it got. -/
def Obligations.DectrkResult : Prop :=
  ∀ (va vb : VIdx) (s : State),
    OpIs (.dectrk va vb) 0x42 ∧
    ((s.vval va).length ≠ 10 → exec (.dectrk va vb) s = .next (afterAbort s 6 0 0)) ∧
    ((s.vval va).length = 10 → (s.vval vb).length ≠ 16 → (s.vval vb).length ≠ 24 →
      exec (.dectrk va vb) s = .next (afterAbort s 6 0 0)) ∧
    ((s.vval va).length = 10 → ((s.vval vb).length = 16 ∨ (s.vval vb).length = 24) →
      (FailsAfter 0 s.eng → exec (.dectrk va vb) s = .next (afterAbort s 6 0 1)) ∧
      (∀ m, 1 ≤ m → m < 2 + 2 * counterWeight (s.vval va) → FailsAfter m s.eng →
        exec (.dectrk va vb) s = .next (afterAbort s 6 (m - 1) 2)) ∧
      (s.pval.length % 8 ≠ 0 → Answered (2 + 2 * counterWeight (s.vval va)) s.eng →
        exec (.dectrk va vb) s =
          .next (afterAbort s 6 (2 * counterWeight (s.vval va)) 2)) ∧
      (s.pval.length % 8 = 0 → FailsAfter (2 + 2 * counterWeight (s.vval va)) s.eng →
        exec (.dectrk va vb) s =
          .next (afterAbort s 6 (2 * counterWeight (s.vval va)) 3)) ∧
      (s.pval.length % 8 = 0 → Answered (3 + 2 * counterWeight (s.vval va)) s.eng →
        exec (.dectrk va vb) s =
          .next (afterP s
            (dke.cipher.tdesCbcD
              (key24Of (pinKeyOf (derivedOf dke.cipher (s.vval va) (s.vval vb)))) s.pval)
            (2 * counterWeight (s.vval va)) 3)))

/-- R234: DECTRK reports success or `DecodeFailure`, and no other bit of `ESTICKY` shows the cause. -/
def Obligations.DectrkMasksEveryError : Prop :=
  ∀ (va vb : VIdx) (s t : State), exec (.dectrk va vb) s = .next t →
    (t.errcode = 0 ∧ t.esticky = s.esticky) ∨
    (t.errcode = 6 ∧ t.esticky = s.esticky ||| 0x040 ∧ t.p = s.p)

/-- R185: after a completed ENCD, DECD with the same operands restores the payload. -/
def Obligations.EncdDecdRoundTrip : Prop :=
  ∀ (va vb : VIdx) (s t u : State), exec (.encd va vb) s = .next t → t.errcode = 0 →
    u.vval va = t.vval va → u.vval vb = t.vval vb → u.p = t.p → Answered 5 u.eng →
    ∃ x, exec (.decd va vb) u = .next x ∧ x.errcode = 0 ∧ x.pval = s.pval

/-- R185 with R121: the round trip for every cipher unit that meets the port's contract and does not
fail, under either reading of `ksnMod`. -/
def Obligations.RoundTripForEveryCipher : Prop :=
  ∀ (c : Config) (ksn ipek p r : ByteVec) (e e' e1 : Engine),
    c.cipher.Lawful → c.cipherMayFail = false → encryptData c ksn ipek p e = .ok r e' →
    ∃ e2, decryptData c ksn ipek r e1 = .ok p e2

/-! ## The reference cipher -/

/-- R121 (b), (c) with R218: the reference cipher meets the port's contract. -/
def Obligations.ReferenceCipherIsLawful : Prop := refCipher.Lawful

/-- R216: `DES_D(k, DES_E(k, b)) = b`. -/
def Obligations.DesDecryptionInvertsEncryption : Prop :=
  ∀ k b : BitVec 64, desDec k (desEnc k b) = b

/-- R213: the parity bits of a key (every eighth bit) never affect the result. -/
def Obligations.DesIgnoresParityBits : Prop :=
  ∀ k k' b : BitVec 64, (∀ j < 64, j % 8 ≠ 7 → k.getMsbD j = k'.getMsbD j) →
    desEnc k b = desEnc k' b ∧ desDec k b = desDec k' b

/-- R219: the check vectors of the reference cipher. -/
def Obligations.DesCheckVectors : Prop :=
  desEnc 0x133457799BBCDFF1 0x0123456789ABCDEF = 0x85E813540F0AB405 ∧
  desEnc 0x123456789ABCDEF0 0x0123456789ABCDEF = 0x85E813540F0AB405 ∧
  desDec 0x133457799BBCDFF1 0x85E813540F0AB405 = 0x0123456789ABCDEF ∧
  desEnc 0x0000000000000000 0x0000000000000000 = 0x8CA64DE9C1B123A7 ∧
  desEnc 0xFFFFFFFFFFFFFFFF 0xFFFFFFFFFFFFFFFF = 0x7359B2163E4EDC58 ∧
  desEnc 0x6AC292FAA1315B4D 0x1DFCE791C735933B = 0xED54258B07ECE8F3 ∧
  tdesEnc 0x0123456789ABCDEF 0xFEDCBA9876543210 0x0123456789ABCDEF 0xFFFF9876543210E0 =
    0x6AC292FAA1315B4D ∧
  refTdesCbcE (encBytes 24 0x0123456789ABCDEFFEDCBA98765432100123456789ABCDEF) (encBytes 16 0) =
    encBytes 16 0x08D7B4FB629D08850A121DC33DFB5947 ∧
  refTdesCbcD (encBytes 24 0x0123456789ABCDEFFEDCBA98765432100123456789ABCDEF)
      (encBytes 16 0x6AC292FAA1315B4D858AB3A3D7D5933A) =
    encBytes 16 0xFFFF9876543210E08D4C18AFD9369020 ∧
  (desRoundKeys 0x133457799BBCDFF1).head? =
    some 0b000110110000001011101111111111000111000001110010 ∧
  (desRoundKeys 0x133457799BBCDFF1).getLast? =
    some 0b110010110011110110001011000011100001011111110101

/-! ## Housekeeping -/

/-- R201: ZEROIZE. -/
def Obligations.ZeroizeResult : Prop :=
  ∀ s : State, OpIs .zeroize 0x02 ∧
    exec .zeroize s = .next { s with
      v := State.reset.v, p := State.reset.p, errcode := 0, eng := ranEngine s.eng 0 0 }

/-- R202: CLRCNT. -/
def Obligations.ClrcntResult : Prop :=
  ∀ s : State, OpIs .clrcnt 0x03 ∧
    exec .clrcnt s = .next { s with
      errcode := 0
      eng := { sdescnt := 0, tdescnt := 0, work := Work.zero, port := s.eng.port } }

/-! ## The invariant -/

/-- R21, R25, R27, R28, R33 and decision D23: every step of every state that meets the invariant
gives a state that meets it. -/
def Obligations.InvariantKeptByEveryStep : Prop :=
  ∀ s t : State, s.Inv → step s = .next t → t.Inv

/-- R38: the invariant holds after reset. -/
def Obligations.InvariantMetByReset : Prop := State.reset.Inv

/-! ## Pseudo-instructions and driver macros -/

/-- R87: the host accesses of LDV and LDP load the value and touch no other register. -/
def Obligations.LoadMacrosLoad : Prop :=
  ∀ (v : ByteVec) (s : State) (rest : List HostInput),
    (∀ i : VIdx, v.length ≤ vcap → s.pending = macroLDV i v ++ rest →
      ∃ t : State, core.run (macroLDV i v).length s = .next t ∧ t.vval i = v ∧
        (∀ j : VIdx, j ≠ i → t.vreg j = s.vreg j) ∧ t.p = s.p ∧ t.cmd = s.cmd ∧
        t.errcode = s.errcode ∧ t.esticky = s.esticky ∧ t.eng = s.eng ∧ t.pending = rest) ∧
    (v.length ≤ pcap → s.pending = macroLDP v ++ rest →
      ∃ t : State, core.run (macroLDP v).length s = .next t ∧ t.pval = v ∧ t.v = s.v ∧
        t.cmd = s.cmd ∧ t.errcode = s.errcode ∧ t.esticky = s.esticky ∧ t.eng = s.eng ∧
        t.pending = rest)

/-- R87, R24: VMOV copies the value; VCLR zeroes every byte of the value and keeps its length. -/
def Obligations.PseudoInstructionResults : Prop :=
  ∀ (vd va : VIdx) (s : State),
    exec (pseudoVmov vd va) s = .next (afterV s vd (s.vval va) 0 0) ∧
    exec (pseudoVclr vd) s = .next (afterV s vd (fillBytes (s.vval vd).length 0) 0 0)

end
end

