-- ==== Sys2Proof/Laws/Bytes.lean ====
section
/-! SUPPORT. What the byte-vector expressions are: lengths, the integer view and its inverse. -/

namespace Sys2Proof.Machine

@[simp] theorem length_encBytes (n x : Nat) : (encBytes n x).length = n := by simp [encBytes]

@[simp] theorem length_fillBytes (n : Nat) (b : Byte) : (fillBytes n b).length = n := by
  simp [fillBytes]

@[simp] theorem length_subBytes (v : ByteVec) (i j : Nat) :
    (subBytes v i j).length = min (j + 1 - i) (v.length - i) := by simp [subBytes]

@[simp] theorem length_andBytes (a b : ByteVec) :
    (andBytes a b).length = min a.length b.length := by simp [andBytes]

@[simp] theorem length_orBytes (a b : ByteVec) :
    (orBytes a b).length = min a.length b.length := by simp [orBytes]

@[simp] theorem length_xorBytes (a b : ByteVec) :
    (xorBytes a b).length = min a.length b.length := by simp [xorBytes]

@[simp] theorem length_notBytes (a : ByteVec) : (notBytes a).length = a.length := by
  simp [notBytes]

@[simp] theorem length_shrBytes (a : ByteVec) (n : Nat) : (shrBytes a n).length = a.length := by
  simp [shrBytes]

@[simp] theorem length_variantMask : variantMask.length = 16 := by simp [variantMask]

@[simp] theorem length_variantMask24 : variantMask24.length = 24 := by simp [variantMask24]

@[simp] theorem length_counterMask : counterMask.length = 10 := by simp [counterMask]

@[simp] theorem length_pinConst : pinConst.length = 8 := by simp [pinConst]

@[simp] theorem length_srInit : srInit.length = 8 := by simp [srInit]

/-- Byte `i` of `enc(n, x)`. -/
theorem getElem?_encBytes (n x i : Nat) (h : i < n) :
    (encBytes n x)[i]? = some (BitVec.ofNat 8 (x / 256 ^ (n - 1 - i))) := by
  simp [encBytes, h]

/-- The last byte of `enc(n + 1, x)` is `x mod 256`, the others are `enc(n, x / 256)`. -/
theorem encBytes_succ (n x : Nat) :
    encBytes (n + 1) x = encBytes n (x / 256) ++ [BitVec.ofNat 8 x] := by
  simp only [encBytes, List.range_succ, List.map_append, List.map_cons, List.map_nil]
  congr 1
  · apply List.map_congr_left
    intro i hi
    have hi' : i < n := List.mem_range.mp hi
    rw [show n + 1 - 1 - i = (n - 1 - i) + 1 by omega, Nat.pow_succ, Nat.mul_comm,
      ← Nat.div_div_eq_div_mul]
  · simp

@[simp] theorem beInt_nil : beInt [] = 0 := rfl

/-- One more byte on the right. -/
theorem beInt_concat (v : ByteVec) (b : Byte) : beInt (v ++ [b]) = beInt v * 256 + b.toNat := by
  simp [beInt, List.foldl_append]

/-- `int(enc(n, x)) = x mod 256^n` (00_scope.md R9). -/
theorem beInt_encBytes (n x : Nat) : beInt (encBytes n x) = x % 256 ^ n := by
  induction n generalizing x with
  | zero => simp [encBytes, Nat.mod_one]
  | succ n ih =>
    have hm : x % 256 ^ (n + 1) = x % 256 + 256 * (x / 256 % 256 ^ n) := by
      rw [Nat.pow_succ', Nat.mod_mul]
    have hb : (BitVec.ofNat 8 x).toNat = x % 256 := by simp
    rw [encBytes_succ, beInt_concat, ih, hb, hm]
    omega

/-- The integer of an `n`-byte vector is below `256^n`. -/
theorem beInt_lt (v : ByteVec) : beInt v < 256 ^ v.length := by
  induction v using List.reverseRecOn with
  | nil => simp
  | append_singleton v b ih =>
    rw [beInt_concat, List.length_append, List.length_singleton, Nat.pow_succ]
    have := b.isLt
    omega

/-- A vector is the encoding of its integer. -/
theorem encBytes_beInt (v : ByteVec) : encBytes v.length (beInt v) = v := by
  induction v using List.reverseRecOn with
  | nil => simp [encBytes]
  | append_singleton v b ih =>
    have hb := b.isLt
    rw [List.length_append, List.length_singleton, encBytes_succ, beInt_concat,
      show (beInt v * 256 + b.toNat) / 256 = beInt v by omega, ih]
    congr 1
    simp only [List.cons.injEq, and_true]
    apply BitVec.eq_of_toNat_eq
    simp only [BitVec.toNat_ofNat]
    omega

/-- Vectors of one length with equal integers are equal. -/
theorem beInt_inj {a b : ByteVec} (hl : a.length = b.length) (hi : beInt a = beInt b) : a = b := by
  rw [← encBytes_beInt a, ← encBytes_beInt b, hl, hi]

/-- The integer of a right shift is the floor quotient (40_bytevector_alu.md R107). -/
theorem beInt_shrBytes (a : ByteVec) (n : Nat) : beInt (shrBytes a n) = beInt a / 2 ^ n := by
  rw [shrBytes, beInt_encBytes, Nat.mod_eq_of_lt]
  exact lt_of_le_of_lt (Nat.div_le_self _ _) (beInt_lt a)

/-- The bytes `padData` begins with and the zeros it ends in (10_state.md R22). -/
theorem toList_padData (n : Nat) (v : ByteVec) (h : v.length ≤ n) :
    (padData n v).toList = v ++ List.replicate (n - v.length) 0 := by
  simp [padData, Vector.toList, List.take_append, List.take_of_length_le h]

end Sys2Proof.Machine
end

