-- ==== Sys2Proof/Laws/State.lean ====
section
/-! SUPPORT. One lemma for each field of each update of the state, true by rfl, so that no later
proof unfolds a record update. -/

namespace Sys2Proof.Machine

/-! `setVreg` -/

@[simp] theorem setVreg_v (s : State) (i : VIdx) (b : Buf vcap) :
    (s.setVreg i b).v = s.v.set i.val b i.isLt := rfl

@[simp] theorem setVreg_p (s : State) (i : VIdx) (b : Buf vcap) :
    (s.setVreg i b).p = s.p := rfl

@[simp] theorem setVreg_cmd (s : State) (i : VIdx) (b : Buf vcap) :
    (s.setVreg i b).cmd = s.cmd := rfl

@[simp] theorem setVreg_errcode (s : State) (i : VIdx) (b : Buf vcap) :
    (s.setVreg i b).errcode = s.errcode := rfl

@[simp] theorem setVreg_esticky (s : State) (i : VIdx) (b : Buf vcap) :
    (s.setVreg i b).esticky = s.esticky := rfl

@[simp] theorem setVreg_eng (s : State) (i : VIdx) (b : Buf vcap) :
    (s.setVreg i b).eng = s.eng := rfl

@[simp] theorem setVreg_pending (s : State) (i : VIdx) (b : Buf vcap) :
    (s.setVreg i b).pending = s.pending := rfl

@[simp] theorem setVreg_bus (s : State) (i : VIdx) (b : Buf vcap) :
    (s.setVreg i b).bus = s.bus := rfl

/-! `writeV` -/

@[simp] theorem writeV_v (s : State) (i : VIdx) (r : ByteVec) :
    (s.writeV i r).v = s.v.set i.val (Buf.ofBytes vcap r) i.isLt := rfl

@[simp] theorem writeV_p (s : State) (i : VIdx) (r : ByteVec) :
    (s.writeV i r).p = s.p := rfl

@[simp] theorem writeV_cmd (s : State) (i : VIdx) (r : ByteVec) :
    (s.writeV i r).cmd = s.cmd := rfl

@[simp] theorem writeV_errcode (s : State) (i : VIdx) (r : ByteVec) :
    (s.writeV i r).errcode = s.errcode := rfl

@[simp] theorem writeV_esticky (s : State) (i : VIdx) (r : ByteVec) :
    (s.writeV i r).esticky = s.esticky := rfl

@[simp] theorem writeV_eng (s : State) (i : VIdx) (r : ByteVec) :
    (s.writeV i r).eng = s.eng := rfl

@[simp] theorem writeV_pending (s : State) (i : VIdx) (r : ByteVec) :
    (s.writeV i r).pending = s.pending := rfl

@[simp] theorem writeV_bus (s : State) (i : VIdx) (r : ByteVec) :
    (s.writeV i r).bus = s.bus := rfl

/-! `writeP` -/

@[simp] theorem writeP_v (s : State) (r : ByteVec) :
    (s.writeP r).v = s.v := rfl

@[simp] theorem writeP_p (s : State) (r : ByteVec) :
    (s.writeP r).p = Buf.ofBytes pcap r := rfl

@[simp] theorem writeP_cmd (s : State) (r : ByteVec) :
    (s.writeP r).cmd = s.cmd := rfl

@[simp] theorem writeP_errcode (s : State) (r : ByteVec) :
    (s.writeP r).errcode = s.errcode := rfl

@[simp] theorem writeP_esticky (s : State) (r : ByteVec) :
    (s.writeP r).esticky = s.esticky := rfl

@[simp] theorem writeP_eng (s : State) (r : ByteVec) :
    (s.writeP r).eng = s.eng := rfl

@[simp] theorem writeP_pending (s : State) (r : ByteVec) :
    (s.writeP r).pending = s.pending := rfl

@[simp] theorem writeP_bus (s : State) (r : ByteVec) :
    (s.writeP r).bus = s.bus := rfl

/-! `complete` -/

@[simp] theorem complete_v (s : State) :
    (complete s).v = s.v := rfl

@[simp] theorem complete_p (s : State) :
    (complete s).p = s.p := rfl

@[simp] theorem complete_cmd (s : State) :
    (complete s).cmd = s.cmd := rfl

@[simp] theorem complete_errcode (s : State) :
    (complete s).errcode = 0 := rfl

@[simp] theorem complete_esticky (s : State) :
    (complete s).esticky = s.esticky := rfl

@[simp] theorem complete_eng (s : State) :
    (complete s).eng = s.eng.clear := rfl

@[simp] theorem complete_pending (s : State) :
    (complete s).pending = s.pending := rfl

@[simp] theorem complete_bus (s : State) :
    (complete s).bus = s.bus := rfl

/-! `abort` -/

@[simp] theorem abort_v (err : Err) (s : State) :
    (abort err s).v = s.v := rfl

@[simp] theorem abort_p (err : Err) (s : State) :
    (abort err s).p = s.p := rfl

@[simp] theorem abort_cmd (err : Err) (s : State) :
    (abort err s).cmd = s.cmd := rfl

@[simp] theorem abort_errcode (err : Err) (s : State) :
    (abort err s).errcode = errWord err := rfl

@[simp] theorem abort_esticky (err : Err) (s : State) :
    (abort err s).esticky = s.esticky ||| stickyBit err := rfl

@[simp] theorem abort_eng (err : Err) (s : State) :
    (abort err s).eng = s.eng.clear := rfl

@[simp] theorem abort_pending (err : Err) (s : State) :
    (abort err s).pending = s.pending := rfl

@[simp] theorem abort_bus (err : Err) (s : State) :
    (abort err s).bus = s.bus := rfl

/-! `eraseBuffers` -/

@[simp] theorem eraseBuffers_v (s : State) :
    (eraseBuffers s).v = Vector.replicate nvreg (Buf.ofBytes vcap []) := rfl

@[simp] theorem eraseBuffers_p (s : State) :
    (eraseBuffers s).p = Buf.ofBytes pcap [] := rfl

@[simp] theorem eraseBuffers_cmd (s : State) :
    (eraseBuffers s).cmd = s.cmd := rfl

@[simp] theorem eraseBuffers_errcode (s : State) :
    (eraseBuffers s).errcode = s.errcode := rfl

@[simp] theorem eraseBuffers_esticky (s : State) :
    (eraseBuffers s).esticky = s.esticky := rfl

@[simp] theorem eraseBuffers_eng (s : State) :
    (eraseBuffers s).eng = s.eng := rfl

@[simp] theorem eraseBuffers_pending (s : State) :
    (eraseBuffers s).pending = s.pending := rfl

@[simp] theorem eraseBuffers_bus (s : State) :
    (eraseBuffers s).bus = s.bus := rfl

/-! `clearCounters` -/

@[simp] theorem clearCounters_v (s : State) :
    (clearCounters s).v = s.v := rfl

@[simp] theorem clearCounters_p (s : State) :
    (clearCounters s).p = s.p := rfl

@[simp] theorem clearCounters_cmd (s : State) :
    (clearCounters s).cmd = s.cmd := rfl

@[simp] theorem clearCounters_errcode (s : State) :
    (clearCounters s).errcode = s.errcode := rfl

@[simp] theorem clearCounters_esticky (s : State) :
    (clearCounters s).esticky = s.esticky := rfl

@[simp] theorem clearCounters_eng (s : State) :
    (clearCounters s).eng = { s.eng with sdescnt := 0, tdescnt := 0 } := rfl

@[simp] theorem clearCounters_pending (s : State) :
    (clearCounters s).pending = s.pending := rfl

@[simp] theorem clearCounters_bus (s : State) :
    (clearCounters s).bus = s.bus := rfl

/-! `busRefuse` -/

@[simp] theorem busRefuse_v (s : State) :
    (busRefuse s).v = s.v := rfl

@[simp] theorem busRefuse_p (s : State) :
    (busRefuse s).p = s.p := rfl

@[simp] theorem busRefuse_cmd (s : State) :
    (busRefuse s).cmd = s.cmd := rfl

@[simp] theorem busRefuse_errcode (s : State) :
    (busRefuse s).errcode = s.errcode := rfl

@[simp] theorem busRefuse_esticky (s : State) :
    (busRefuse s).esticky = s.esticky := rfl

@[simp] theorem busRefuse_eng (s : State) :
    (busRefuse s).eng = s.eng := rfl

@[simp] theorem busRefuse_pending (s : State) :
    (busRefuse s).pending = s.pending := rfl

@[simp] theorem busRefuse_bus (s : State) :
    (busRefuse s).bus = .busError := rfl

/-! `resetBlock` -/

@[simp] theorem resetBlock_v (s : State) :
    (resetBlock s).v = State.reset.v := rfl

@[simp] theorem resetBlock_p (s : State) :
    (resetBlock s).p = State.reset.p := rfl

@[simp] theorem resetBlock_cmd (s : State) :
    (resetBlock s).cmd = 0 := rfl

@[simp] theorem resetBlock_errcode (s : State) :
    (resetBlock s).errcode = 0 := rfl

@[simp] theorem resetBlock_esticky (s : State) :
    (resetBlock s).esticky = 0 := rfl

@[simp] theorem resetBlock_eng (s : State) :
    (resetBlock s).eng = { State.reset.eng with port := s.eng.port } := rfl

@[simp] theorem resetBlock_pending (s : State) :
    (resetBlock s).pending = s.pending := rfl

@[simp] theorem resetBlock_bus (s : State) :
    (resetBlock s).bus = .idle := rfl

/-! `withFetchWord` -/

@[simp] theorem withFetchWord_v (s : State) (nbits w : Nat) :
    (s.withFetchWord nbits w).v = s.v := rfl

@[simp] theorem withFetchWord_p (s : State) (nbits w : Nat) :
    (s.withFetchWord nbits w).p = s.p := rfl

@[simp] theorem withFetchWord_cmd (s : State) (nbits w : Nat) :
    (s.withFetchWord nbits w).cmd = s.cmd := rfl

@[simp] theorem withFetchWord_errcode (s : State) (nbits w : Nat) :
    (s.withFetchWord nbits w).errcode = s.errcode := rfl

@[simp] theorem withFetchWord_esticky (s : State) (nbits w : Nat) :
    (s.withFetchWord nbits w).esticky = s.esticky := rfl

@[simp] theorem withFetchWord_eng (s : State) (nbits w : Nat) :
    (s.withFetchWord nbits w).eng = s.eng := rfl

@[simp] theorem withFetchWord_pending (s : State) (nbits w : Nat) :
    (s.withFetchWord nbits w).pending = commandWrite (tableWord nbits w) :: s.pending := rfl

@[simp] theorem withFetchWord_bus (s : State) (nbits w : Nat) :
    (s.withFetchWord nbits w).bus = s.bus := rfl

/-! `afterV` -/

@[simp] theorem afterV_v (s : State) (i : VIdx) (r : ByteVec) (ns nt : Nat) :
    (afterV s i r ns nt).v = s.v.set i.val (Buf.ofBytes vcap r) i.isLt := rfl

@[simp] theorem afterV_p (s : State) (i : VIdx) (r : ByteVec) (ns nt : Nat) :
    (afterV s i r ns nt).p = s.p := rfl

@[simp] theorem afterV_cmd (s : State) (i : VIdx) (r : ByteVec) (ns nt : Nat) :
    (afterV s i r ns nt).cmd = s.cmd := rfl

@[simp] theorem afterV_errcode (s : State) (i : VIdx) (r : ByteVec) (ns nt : Nat) :
    (afterV s i r ns nt).errcode = 0 := rfl

@[simp] theorem afterV_esticky (s : State) (i : VIdx) (r : ByteVec) (ns nt : Nat) :
    (afterV s i r ns nt).esticky = s.esticky := rfl

@[simp] theorem afterV_eng (s : State) (i : VIdx) (r : ByteVec) (ns nt : Nat) :
    (afterV s i r ns nt).eng = ranEngine s.eng ns nt := rfl

@[simp] theorem afterV_pending (s : State) (i : VIdx) (r : ByteVec) (ns nt : Nat) :
    (afterV s i r ns nt).pending = s.pending := rfl

@[simp] theorem afterV_bus (s : State) (i : VIdx) (r : ByteVec) (ns nt : Nat) :
    (afterV s i r ns nt).bus = s.bus := rfl

/-! `afterP` -/

@[simp] theorem afterP_v (s : State) (r : ByteVec) (ns nt : Nat) :
    (afterP s r ns nt).v = s.v := rfl

@[simp] theorem afterP_p (s : State) (r : ByteVec) (ns nt : Nat) :
    (afterP s r ns nt).p = Buf.ofBytes pcap r := rfl

@[simp] theorem afterP_cmd (s : State) (r : ByteVec) (ns nt : Nat) :
    (afterP s r ns nt).cmd = s.cmd := rfl

@[simp] theorem afterP_errcode (s : State) (r : ByteVec) (ns nt : Nat) :
    (afterP s r ns nt).errcode = 0 := rfl

@[simp] theorem afterP_esticky (s : State) (r : ByteVec) (ns nt : Nat) :
    (afterP s r ns nt).esticky = s.esticky := rfl

@[simp] theorem afterP_eng (s : State) (r : ByteVec) (ns nt : Nat) :
    (afterP s r ns nt).eng = ranEngine s.eng ns nt := rfl

@[simp] theorem afterP_pending (s : State) (r : ByteVec) (ns nt : Nat) :
    (afterP s r ns nt).pending = s.pending := rfl

@[simp] theorem afterP_bus (s : State) (r : ByteVec) (ns nt : Nat) :
    (afterP s r ns nt).bus = s.bus := rfl

/-! `afterAbort` -/

@[simp] theorem afterAbort_v (s : State) (code ns nt : Nat) :
    (afterAbort s code ns nt).v = s.v := rfl

@[simp] theorem afterAbort_p (s : State) (code ns nt : Nat) :
    (afterAbort s code ns nt).p = s.p := rfl

@[simp] theorem afterAbort_cmd (s : State) (code ns nt : Nat) :
    (afterAbort s code ns nt).cmd = s.cmd := rfl

@[simp] theorem afterAbort_errcode (s : State) (code ns nt : Nat) :
    (afterAbort s code ns nt).errcode = BitVec.ofNat 32 code := rfl

@[simp] theorem afterAbort_esticky (s : State) (code ns nt : Nat) :
    (afterAbort s code ns nt).esticky = s.esticky ||| BitVec.ofNat 32 (2 ^ code) := rfl

@[simp] theorem afterAbort_eng (s : State) (code ns nt : Nat) :
    (afterAbort s code ns nt).eng = ranEngine s.eng ns nt := rfl

@[simp] theorem afterAbort_pending (s : State) (code ns nt : Nat) :
    (afterAbort s code ns nt).pending = s.pending := rfl

@[simp] theorem afterAbort_bus (s : State) (code ns nt : Nat) :
    (afterAbort s code ns nt).bus = s.bus := rfl

/-! `Engine.clear` -/

@[simp] theorem clear_sdescnt (e : Engine) :
    (e.clear).sdescnt = e.sdescnt := rfl

@[simp] theorem clear_tdescnt (e : Engine) :
    (e.clear).tdescnt = e.tdescnt := rfl

@[simp] theorem clear_work (e : Engine) :
    (e.clear).work = Work.zero := rfl

@[simp] theorem clear_port (e : Engine) :
    (e.clear).port = e.port := rfl

/-! `countDes` -/

@[simp] theorem countDes_sdescnt (e : Engine) :
    (countDes e).sdescnt = e.sdescnt + 1 := rfl

@[simp] theorem countDes_tdescnt (e : Engine) :
    (countDes e).tdescnt = e.tdescnt := rfl

@[simp] theorem countDes_work (e : Engine) :
    (countDes e).work = e.work := rfl

@[simp] theorem countDes_port (e : Engine) :
    (countDes e).port = e.port := rfl

/-! `countTdes` -/

@[simp] theorem countTdes_sdescnt (e : Engine) :
    (countTdes e).sdescnt = e.sdescnt := rfl

@[simp] theorem countTdes_tdescnt (e : Engine) :
    (countTdes e).tdescnt = e.tdescnt + 1 := rfl

@[simp] theorem countTdes_work (e : Engine) :
    (countTdes e).work = e.work := rfl

@[simp] theorem countTdes_port (e : Engine) :
    (countTdes e).port = e.port := rfl

/-! `ranEngine` -/

@[simp] theorem ranEngine_sdescnt (e : Engine) (ns nt : Nat) :
    (ranEngine e ns nt).sdescnt = e.sdescnt + BitVec.ofNat 32 ns := rfl

@[simp] theorem ranEngine_tdescnt (e : Engine) (ns nt : Nat) :
    (ranEngine e ns nt).tdescnt = e.tdescnt + BitVec.ofNat 32 nt := rfl

@[simp] theorem ranEngine_work (e : Engine) (ns nt : Nat) :
    (ranEngine e ns nt).work = Work.zero := rfl

@[simp] theorem ranEngine_port (e : Engine) (ns nt : Nat) :
    (ranEngine e ns nt).port = e.port.drop (ns + nt) := rfl

/-! `loadCounter` -/

@[simp] theorem loadCounter_sdescnt (ksn : ByteVec) (e : Engine) :
    (loadCounter ksn e).sdescnt = e.sdescnt := rfl

@[simp] theorem loadCounter_tdescnt (ksn : ByteVec) (e : Engine) :
    (loadCounter ksn e).tdescnt = e.tdescnt := rfl

@[simp] theorem loadCounter_port (ksn : ByteVec) (e : Engine) :
    (loadCounter ksn e).port = e.port := rfl

@[simp] theorem loadCounter_work_r3 (ksn : ByteVec) (e : Engine) :
    (loadCounter ksn e).work.r3 = subBytes (andBytes ksn counterMask) 2 9 := rfl

@[simp] theorem loadCounter_work_r8 (ksn : ByteVec) (e : Engine) :
    (loadCounter ksn e).work.r8 = subBytes (zeroCounter ksn) 2 9 := rfl

@[simp] theorem loadCounter_work_sr (ksn : ByteVec) (e : Engine) :
    (loadCounter ksn e).work.sr = e.work.sr := rfl

@[simp] theorem loadCounter_work_curkey (ksn : ByteVec) (e : Engine) :
    (loadCounter ksn e).work.curkey = e.work.curkey := rfl

@[simp] theorem loadCounter_work_reg1 (ksn : ByteVec) (e : Engine) :
    (loadCounter ksn e).work.reg1 = e.work.reg1 := rfl

@[simp] theorem loadCounter_work_reg2 (ksn : ByteVec) (e : Engine) :
    (loadCounter ksn e).work.reg2 = e.work.reg2 := rfl

/-! `orMask` -/

@[simp] theorem orMask_sdescnt (e : Engine) :
    (orMask e).sdescnt = e.sdescnt := rfl

@[simp] theorem orMask_tdescnt (e : Engine) :
    (orMask e).tdescnt = e.tdescnt := rfl

@[simp] theorem orMask_port (e : Engine) :
    (orMask e).port = e.port := rfl

@[simp] theorem orMask_work_r3 (e : Engine) :
    (orMask e).work.r3 = e.work.r3 := rfl

@[simp] theorem orMask_work_r8 (e : Engine) :
    (orMask e).work.r8 = orBytes e.work.r8 e.work.sr := rfl

@[simp] theorem orMask_work_sr (e : Engine) :
    (orMask e).work.sr = e.work.sr := rfl

@[simp] theorem orMask_work_curkey (e : Engine) :
    (orMask e).work.curkey = e.work.curkey := rfl

@[simp] theorem orMask_work_reg1 (e : Engine) :
    (orMask e).work.reg1 = e.work.reg1 := rfl

@[simp] theorem orMask_work_reg2 (e : Engine) :
    (orMask e).work.reg2 = e.work.reg2 := rfl

/-! `varyKey` -/

@[simp] theorem varyKey_sdescnt (e : Engine) :
    (varyKey e).sdescnt = e.sdescnt := rfl

@[simp] theorem varyKey_tdescnt (e : Engine) :
    (varyKey e).tdescnt = e.tdescnt := rfl

@[simp] theorem varyKey_port (e : Engine) :
    (varyKey e).port = e.port := rfl

@[simp] theorem varyKey_work_r3 (e : Engine) :
    (varyKey e).work.r3 = e.work.r3 := rfl

@[simp] theorem varyKey_work_r8 (e : Engine) :
    (varyKey e).work.r8 = e.work.r8 := rfl

@[simp] theorem varyKey_work_sr (e : Engine) :
    (varyKey e).work.sr = e.work.sr := rfl

@[simp] theorem varyKey_work_curkey (e : Engine) :
    (varyKey e).work.curkey = xorBytes e.work.curkey variantMask := rfl

@[simp] theorem varyKey_work_reg1 (e : Engine) :
    (varyKey e).work.reg1 = e.work.reg1 := rfl

@[simp] theorem varyKey_work_reg2 (e : Engine) :
    (varyKey e).work.reg2 = e.work.reg2 := rfl

/-! `joinKey` -/

@[simp] theorem joinKey_sdescnt (e : Engine) :
    (joinKey e).sdescnt = e.sdescnt := rfl

@[simp] theorem joinKey_tdescnt (e : Engine) :
    (joinKey e).tdescnt = e.tdescnt := rfl

@[simp] theorem joinKey_port (e : Engine) :
    (joinKey e).port = e.port := rfl

@[simp] theorem joinKey_work_r3 (e : Engine) :
    (joinKey e).work.r3 = e.work.r3 := rfl

@[simp] theorem joinKey_work_r8 (e : Engine) :
    (joinKey e).work.r8 = e.work.r8 := rfl

@[simp] theorem joinKey_work_sr (e : Engine) :
    (joinKey e).work.sr = e.work.sr := rfl

@[simp] theorem joinKey_work_curkey (e : Engine) :
    (joinKey e).work.curkey = e.work.reg1 ++ e.work.reg2 := rfl

@[simp] theorem joinKey_work_reg1 (e : Engine) :
    (joinKey e).work.reg1 = e.work.reg1 := rfl

@[simp] theorem joinKey_work_reg2 (e : Engine) :
    (joinKey e).work.reg2 = e.work.reg2 := rfl

/-! `shiftMask` -/

@[simp] theorem shiftMask_sdescnt (e : Engine) :
    (shiftMask e).sdescnt = e.sdescnt := rfl

@[simp] theorem shiftMask_tdescnt (e : Engine) :
    (shiftMask e).tdescnt = e.tdescnt := rfl

@[simp] theorem shiftMask_port (e : Engine) :
    (shiftMask e).port = e.port := rfl

@[simp] theorem shiftMask_work_r3 (e : Engine) :
    (shiftMask e).work.r3 = e.work.r3 := rfl

@[simp] theorem shiftMask_work_r8 (e : Engine) :
    (shiftMask e).work.r8 = e.work.r8 := rfl

@[simp] theorem shiftMask_work_sr (e : Engine) :
    (shiftMask e).work.sr = shrBytes e.work.sr 1 := rfl

@[simp] theorem shiftMask_work_curkey (e : Engine) :
    (shiftMask e).work.curkey = e.work.curkey := rfl

@[simp] theorem shiftMask_work_reg1 (e : Engine) :
    (shiftMask e).work.reg1 = e.work.reg1 := rfl

@[simp] theorem shiftMask_work_reg2 (e : Engine) :
    (shiftMask e).work.reg2 = e.work.reg2 := rfl

end Sys2Proof.Machine
end

