-- ==== Sys2Proof/Laws/Ops.lean ====
section
/-! SUPPORT. For each shared operation, what it can do, said once. -/

namespace Sys2Proof.Machine

/-! Buffers (10_state.md R21 to R25) -/

@[simp] theorem length_value {cap : Nat} (b : Buf cap) : b.value.length = min b.len cap := by
  simp [Buf.value]

@[simp] theorem len_ofBytes (cap : Nat) (v : ByteVec) : (Buf.ofBytes cap v).len = v.length := rfl

/-- A command's write leaves exactly the value written (10_state.md R22). -/
@[simp] theorem value_ofBytes (cap : Nat) (v : ByteVec) (h : v.length ≤ cap) :
    (Buf.ofBytes cap v).value = v := by
  simp [Buf.value, Buf.ofBytes, toList_padData cap v h]

@[simp] theorem len_setLen {cap : Nat} (b : Buf cap) (n : Nat) : (b.setLen n).len = n := rfl
@[simp] theorem data_setLen {cap : Nat} (b : Buf cap) (n : Nat) : (b.setLen n).data = b.data := rfl
@[simp] theorem len_setByte {cap : Nat} (b : Buf cap) (j : Nat) (x : Byte) :
    (b.setByte j x).len = b.len := rfl
@[simp] theorem len_setWord {cap : Nat} (b : Buf cap) (k : Nat) (w : Word) :
    (b.setWord k w).len = b.len := rfl

/-- Byte `j` after byte `i` is replaced. -/
theorem byte_setByte {cap : Nat} (b : Buf cap) (i j : Nat) (x : Byte) :
    (b.setByte i x).byte j = if i = j ∧ j < cap then x else b.byte j := by
  simp only [Buf.byte, Buf.setByte, Vector.toList_setIfInBounds, List.getD_eq_getElem?_getD,
    List.getElem?_set]
  by_cases hij : i = j
  · subst hij
    by_cases hc : i < cap
    · simp [hc]
    · simp [hc]
  · simp [hij]

/-! Vector registers (10_state.md R21 to R24) -/

@[simp] theorem vreg_setVreg_self (s : State) (i : VIdx) (b : Buf vcap) :
    (s.setVreg i b).vreg i = b := by
  simp [State.vreg, State.setVreg, Vector.get_eq_getElem]

theorem vreg_setVreg_of_ne (s : State) {i j : VIdx} (b : Buf vcap) (h : i ≠ j) :
    (s.setVreg i b).vreg j = s.vreg j := by
  simp only [State.vreg, State.setVreg, Vector.get_eq_getElem]
  exact Vector.getElem_set_ne _ _ (fun e => h (Fin.ext e))

/-- The written register holds the value; every other register is untouched. -/
theorem vval_writeV (s : State) (i j : VIdx) (r : ByteVec) (h : r.length ≤ vcap) :
    (s.writeV i r).vval j = if i = j then r else s.vval j := by
  unfold State.vval State.writeV
  by_cases e : i = j
  · subst e; simp [value_ofBytes vcap r h]
  · simp [e, vreg_setVreg_of_ne s (Buf.ofBytes vcap r) e]

/-- The value of a vector register has at most 32 bytes in every state. -/
theorem length_vval_le (s : State) (i : VIdx) : (s.vval i).length ≤ vcap := by
  simp [State.vval]

/-- The value of the payload buffer has at most `PCAP` bytes in every state. -/
theorem length_pval_le (s : State) : s.pval.length ≤ pcap := by simp [State.pval]

/-! Results of the engine (41_cipher_port.md R129) -/

@[simp] theorem andThen_ok {α β : Type} (a : α) (e : Engine) (f : α → Engine → Res β) :
    (Res.ok a e).andThen f = f a e := rfl

@[simp] theorem andThen_raise {α β : Type} (err : Err) (e : Engine) (f : α → Engine → Res β) :
    (Res.raise err e : Res α).andThen f = .raise err e := rfl

/-- A computation completes exactly when its first part does and then its second. -/
theorem andThen_eq_ok_iff {α β : Type} {x : Res α} {f : α → Engine → Res β} {b : β} {e : Engine} :
    x.andThen f = .ok b e ↔ ∃ a e1, x = .ok a e1 ∧ f a e1 = .ok b e := by
  cases x <;> simp

/-- A computation raises in its first part, or in its second after the first completed. -/
theorem andThen_eq_raise_iff {α β : Type} {x : Res α} {f : α → Engine → Res β} {err : Err}
    {e : Engine} :
    x.andThen f = .raise err e ↔
      x = .raise err e ∨ ∃ a e1, x = .ok a e1 ∧ f a e1 = .raise err e := by
  cases x <;> simp

@[simp] theorem mask_ok {α : Type} (a : α) (e : Engine) : (Res.ok a e).mask = .ok a e := rfl

@[simp] theorem mask_raise {α : Type} (err : Err) (e : Engine) :
    (Res.raise err e : Res α).mask = .raise .decodeFailure e := rfl

/-- A masked computation raises `DecodeFailure` and nothing else (60_exceptions.md R234). -/
theorem mask_eq_raise {α : Type} {x : Res α} {err : Err} {e : Engine} (h : x.mask = .raise err e) :
    err = .decodeFailure := by
  cases x with
  | ok a e => simp at h
  | raise err e => simpa using (Res.raise.inj h).1.symm

@[simp] theorem finishV_ok (vd : VIdx) (s : State) (r : ByteVec) (e : Engine) :
    finishV vd s (.ok r e) = complete ({ s with eng := e }.writeV vd r) := rfl

@[simp] theorem finishV_raise (vd : VIdx) (s : State) (err : Err) (e : Engine) :
    finishV vd s (.raise err e) = abort err { s with eng := e } := rfl

@[simp] theorem finishP_ok (s : State) (r : ByteVec) (e : Engine) :
    finishP s (.ok r e) = complete ({ s with eng := e }.writeP r) := rfl

@[simp] theorem finishP_raise (s : State) (err : Err) (e : Engine) :
    finishP s (.raise err e) = abort err { s with eng := e } := rfl

/-- A command with a register destination either completes, and then only that register, `ERRCODE`
and the engine change, or aborts, and then no register does. -/
theorem finishV_cases (vd : VIdx) (s : State) (x : Res ByteVec) :
    (∃ r e, x = .ok r e ∧ finishV vd s x =
      { s with v := s.v.set vd.val (Buf.ofBytes vcap r) vd.isLt, errcode := 0, eng := e.clear }) ∨
    (∃ err e, x = .raise err e ∧ finishV vd s x =
      { s with errcode := errWord err, esticky := s.esticky ||| stickyBit err, eng := e.clear }) := by
  cases x with
  | ok r e => exact .inl ⟨r, e, rfl, rfl⟩
  | raise err e => exact .inr ⟨err, e, rfl, rfl⟩

/-- A command with the payload as destination either completes, and then only the payload, `ERRCODE`
and the engine change, or aborts, and then the payload does not. -/
theorem finishP_cases (s : State) (x : Res ByteVec) :
    (∃ r e, x = .ok r e ∧ finishP s x =
      { s with p := Buf.ofBytes pcap r, errcode := 0, eng := e.clear }) ∨
    (∃ err e, x = .raise err e ∧ finishP s x =
      { s with errcode := errWord err, esticky := s.esticky ||| stickyBit err, eng := e.clear }) := by
  cases x with
  | ok r e => exact .inl ⟨r, e, rfl, rfl⟩
  | raise err e => exact .inr ⟨err, e, rfl, rfl⟩

/-! The codes (60_exceptions.md R231) -/

/-- The word of an error is its code, between 1 and 8. -/
theorem errWord_toNat (err : Err) :
    (errWord err).toNat = errCode err ∧ 1 ≤ errCode err ∧ errCode err ≤ 8 := by
  cases err <;> decide

/-- The sticky bit of an error is the bit numbered by its code. -/
theorem stickyBit_eq (err : Err) : stickyBit err = BitVec.ofNat 32 (2 ^ errCode err) := rfl

/-- Every error sets its own bit, among bits 1 to 8. -/
theorem stickyBit_bits (err : Err) :
    (stickyBit err).getLsbD (errWord err).toNat = true ∧ stickyBit err &&& ~~~0x1FE = 0 := by
  cases err <;> decide

/-! The cipher port and the adapter (41_cipher_port.md R122 to R128) -/

/-- What a response can be: the value, or `CipherFailure`; one answer of the environment is used
where one is listed and the unit may fail. -/
theorem portRespond_cases (c : Config) (r : ByteVec) (e : Engine) :
    (∃ rest, portRespond c r e = .ok r { e with port := rest }) ∨
    (∃ rest, portRespond c r e = .raise .cipherFailure { e with port := rest }) := by
  unfold portRespond
  split
  · split
    · exact .inl ⟨e.port, rfl⟩
    · exact .inl ⟨_, rfl⟩
    · exact .inr ⟨_, rfl⟩
  · exact .inl ⟨e.port, rfl⟩

/-- A unit that never fails answers every request with its function's value (R128). -/
@[simp] theorem portRespond_never (c : Config) (r : ByteVec) (e : Engine)
    (h : c.cipherMayFail = false) : portRespond c r e = .ok r e := by
  simp [portRespond, h]

/-- An answered request (R128). -/
theorem portRespond_answered (r : ByteVec) (e : Engine) (h : Answered 1 e) :
    portRespond dke r e = .ok r { e with port := e.port.drop 1 } := by
  unfold portRespond
  rcases hp : e.port with _ | ⟨x, rest⟩
  · cases e; simp_all [dke]
  · have : x = .answer := h x (by simp [hp])
    subst this; simp [dke]

/-- A request answered `fail` (R128). -/
theorem portRespond_failed (r : ByteVec) (e : Engine) (h : FailsAfter 0 e) :
    portRespond dke r e = .raise .cipherFailure { e with port := e.port.drop 1 } := by
  unfold portRespond
  rcases hp : e.port with _ | ⟨x, rest⟩
  · have := h.2; simp [hp] at this
  · have : x = .fail := by have := h.2; simpa [hp] using this
    subst this; simp [dke]

/-- A completed single-DES call had an 8-byte key and block, counted one request and answers the
cipher's value (R124, R127). -/
theorem singleDesEncrypt_ok {c : Config} {block key r : ByteVec} {e e' : Engine}
    (h : singleDesEncrypt c block key e = .ok r e') :
    key.length = 8 ∧ block.length = 8 ∧ r = c.cipher.desE key block ∧
      ∃ rest, e' = { countDes e with port := rest } := by
  unfold singleDesEncrypt at h
  split at h
  · simp at h
  · split at h
    · simp at h
    · obtain ⟨rest, hr⟩ | ⟨rest, hr⟩ := portRespond_cases c (c.cipher.desE key block) (countDes e) <;>
        rw [hr] at h
      · obtain ⟨h1, h2⟩ := Res.ok.inj h
        exact ⟨by omega, by omega, h1.symm, rest, h2.symm⟩
      · simp at h

/-- A completed triple-DES encryption had a 16- or 24-byte key and whole blocks, counted one request
and answers the cipher's value (R122, R127). -/
theorem tripleDesEncrypt_ok {c : Config} {data key r : ByteVec} {e e' : Engine}
    (h : tripleDesEncrypt c data key e = .ok r e') :
    (key.length = 16 ∨ key.length = 24) ∧ data.length % 8 = 0 ∧
      r = c.cipher.tdesCbcE (expandKey key) data ∧ ∃ rest, e' = { countTdes e with port := rest } := by
  unfold tripleDesEncrypt at h
  split at h
  · simp at h
  · split at h
    · simp at h
    · obtain ⟨rest, hr⟩ | ⟨rest, hr⟩ :=
        portRespond_cases c (c.cipher.tdesCbcE (expandKey key) data) (countTdes e) <;> rw [hr] at h
      · obtain ⟨h1, h2⟩ := Res.ok.inj h
        exact ⟨by omega, by omega, h1.symm, rest, h2.symm⟩
      · simp at h

/-- A completed triple-DES decryption, likewise (R123, R127). -/
theorem tripleDesDecrypt_ok {c : Config} {data key r : ByteVec} {e e' : Engine}
    (h : tripleDesDecrypt c data key e = .ok r e') :
    (key.length = 16 ∨ key.length = 24) ∧ data.length % 8 = 0 ∧
      r = c.cipher.tdesCbcD (expandKey key) data ∧ ∃ rest, e' = { countTdes e with port := rest } := by
  unfold tripleDesDecrypt at h
  split at h
  · simp at h
  · split at h
    · simp at h
    · obtain ⟨rest, hr⟩ | ⟨rest, hr⟩ :=
        portRespond_cases c (c.cipher.tdesCbcD (expandKey key) data) (countTdes e) <;> rw [hr] at h
      · obtain ⟨h1, h2⟩ := Res.ok.inj h
        exact ⟨by omega, by omega, h1.symm, rest, h2.symm⟩
      · simp at h

/-- An expanded key has 24 bytes (R125). -/
theorem length_expandKey {key : ByteVec} (h : key.length = 16 ∨ key.length = 24) :
    (expandKey key).length = 24 := by
  unfold expandKey; rcases h with h | h <;> simp [h]

end Sys2Proof.Machine
end

