-- ==== Sys2Proof/Laws/PerInstr.lean ====
section
/-! SUPPORT. Statements made per instruction: the fields of each command's word
(30_encoding.md R80 to R83). -/

namespace Sys2Proof.Laws

/-- The field that holds a register number (R80). -/
def regField (i : VIdx) : BitVec 4 := BitVec.ofNat 4 i.val

@[simp] theorem regOf_regField (i : VIdx) : regOf (regField i) = i := by
  have h : i.val < 16 := i.isLt
  apply Fin.ext
  simp only [regOf, regField, BitVec.toNat_ofNat]
  omega

/-- The fields a command's word is made of: its opcode, its operands, zero in every field its form
does not use (R81 to R83). -/
def fieldsSpec : Instr → Fields
  | .zeroize => ⟨0x02, 0, 0, 0, 0⟩
  | .clrcnt => ⟨0x03, 0, 0, 0, 0⟩
  | .vand vd va vb => ⟨0x10, regField vd, regField va, regField vb, 0⟩
  | .vor vd va vb => ⟨0x11, regField vd, regField va, regField vb, 0⟩
  | .vxor vd va vb => ⟨0x12, regField vd, regField va, regField vb, 0⟩
  | .vsub vd va first last => ⟨0x13, regField vd, regField va, 0, BitVec.ofNat 12 (first * 64 + last)⟩
  | .vcat vd va vb => ⟨0x14, regField vd, regField va, regField vb, 0⟩
  | .vpadl vd va length fill =>
    ⟨0x15, regField vd, regField va, 0, BitVec.ofNat 12 (fillBit fill * 256 + length)⟩
  | .vshr vd va n => ⟨0x16, regField vd, regField va, 0, BitVec.ofNat 12 n⟩
  | .genipek vd va vb => ⟨0x20, regField vd, regField va, regField vb, 0⟩
  | .derive vd va vb => ⟨0x21, regField vd, regField va, regField vb, 0⟩
  | .bpekh vd va vb => ⟨0x30, regField vd, regField va, regField vb, 0⟩
  | .bpek vd va vb => ⟨0x31, regField vd, regField va, regField vb, 0⟩
  | .pekv vd va => ⟨0x32, regField vd, regField va, 0, 0⟩
  | .peknv vd va => ⟨0x33, regField vd, regField va, 0, 0⟩
  | .encd va vb => ⟨0x40, 0, regField va, regField vb, 0⟩
  | .decd va vb => ⟨0x41, 0, regField va, regField vb, 0⟩
  | .dectrk va vb => ⟨0x42, 0, regField va, regField vb, 0⟩

/-- The number an assembled word is (R86). -/
theorem toNat_assemble (op vd va vb imm : Nat) (ho : op < 256) (hd : vd < 16) (ha : va < 16)
    (hb : vb < 16) (hi : imm < 4096) : (assemble op vd va vb imm).toNat =
      op * 0x1000000 + vd * 0x100000 + va * 0x10000 + vb * 0x1000 + imm := by
  have h : op * 0x1000000 + vd * 0x100000 + va * 0x10000 + vb * 0x1000 + imm < 4294967296 := by
    omega
  rw [assemble, BitVec.toNat_ofNat, Nat.mod_eq_of_lt h]

/-- A field of an assembled word, read as a quotient of its number. -/
theorem extract_assemble {n : Nat} (op vd va vb imm lo x : Nat) (ho : op < 256) (hd : vd < 16)
    (ha : va < 16) (hb : vb < 16) (hi : imm < 4096)
    (hx : (op * 0x1000000 + vd * 0x100000 + va * 0x10000 + vb * 0x1000 + imm) / 2 ^ lo % 2 ^ n =
      x % 2 ^ n) :
    (assemble op vd va vb imm).extractLsb' lo n = BitVec.ofNat n x := by
  apply BitVec.eq_of_toNat_eq
  rw [BitVec.extractLsb'_toNat, toNat_assemble op vd va vb imm ho hd ha hb hi, BitVec.toNat_ofNat,
    Nat.shiftRight_eq_div_pow]
  exact hx

/-- Cutting an assembled word gives the fields it was assembled from (R80, R86). -/
theorem fieldsOf_assemble (op vd va vb imm : Nat) (ho : op < 256) (hd : vd < 16) (ha : va < 16)
    (hb : vb < 16) (hi : imm < 4096) :
    fieldsOf (assemble op vd va vb imm) =
      ⟨BitVec.ofNat 8 op, BitVec.ofNat 4 vd, BitVec.ofNat 4 va, BitVec.ofNat 4 vb,
        BitVec.ofNat 12 imm⟩ := by
  have h (n lo x : Nat) hx :=
    extract_assemble (n := n) op vd va vb imm lo x ho hd ha hb hi hx
  rw [fieldsOf, h 8 24 op (by norm_num; omega), h 4 20 vd (by norm_num; omega),
    h 4 16 va (by norm_num; omega), h 4 12 vb (by norm_num; omega),
    h 12 0 imm (by norm_num; omega)]

/-- The statement of the family: a well-formed command's word has the fields of its row. -/
def EncodesFields.Statement (i : Instr) : Prop := i.wf = true → fieldsOf (encode i) = fieldsSpec i

theorem EncodesFields.zeroize : EncodesFields.Statement .zeroize := fun _ => by decide

theorem EncodesFields.clrcnt : EncodesFields.Statement .clrcnt := fun _ => by decide

theorem EncodesFields.vand (vd va vb : VIdx) : EncodesFields.Statement (.vand vd va vb) :=
  fun _ => fieldsOf_assemble 0x10 vd va vb 0 (by decide) vd.isLt va.isLt vb.isLt (by decide)

theorem EncodesFields.vor (vd va vb : VIdx) : EncodesFields.Statement (.vor vd va vb) :=
  fun _ => fieldsOf_assemble 0x11 vd va vb 0 (by decide) vd.isLt va.isLt vb.isLt (by decide)

theorem EncodesFields.vxor (vd va vb : VIdx) : EncodesFields.Statement (.vxor vd va vb) :=
  fun _ => fieldsOf_assemble 0x12 vd va vb 0 (by decide) vd.isLt va.isLt vb.isLt (by decide)

theorem EncodesFields.vsub (vd va : VIdx) (first last : Nat) :
    EncodesFields.Statement (.vsub vd va first last) := fun h => by
  have h' : first < 64 ∧ last < 64 := by simpa [Instr.wf] using h
  exact fieldsOf_assemble 0x13 vd va 0 (first * 64 + last) (by decide) vd.isLt va.isLt (by decide)
    (by omega)

theorem EncodesFields.vcat (vd va vb : VIdx) : EncodesFields.Statement (.vcat vd va vb) :=
  fun _ => fieldsOf_assemble 0x14 vd va vb 0 (by decide) vd.isLt va.isLt vb.isLt (by decide)

theorem EncodesFields.vpadl (vd va : VIdx) (length : Nat) (fill : FillByte) :
    EncodesFields.Statement (.vpadl vd va length fill) := fun h => by
  have h' : length < 64 := by simpa [Instr.wf] using h
  exact fieldsOf_assemble 0x15 vd va 0 (fillBit fill * 256 + length) (by decide) vd.isLt va.isLt
    (by decide) (by cases fill <;> simp only [fillBit] <;> omega)

theorem EncodesFields.vshr (vd va : VIdx) (n : Nat) : EncodesFields.Statement (.vshr vd va n) :=
  fun h => by
  have h' : n < 4096 := by simpa [Instr.wf] using h
  exact fieldsOf_assemble 0x16 vd va 0 n (by decide) vd.isLt va.isLt (by decide) h'

theorem EncodesFields.genipek (vd va vb : VIdx) : EncodesFields.Statement (.genipek vd va vb) :=
  fun _ => fieldsOf_assemble 0x20 vd va vb 0 (by decide) vd.isLt va.isLt vb.isLt (by decide)

theorem EncodesFields.derive (vd va vb : VIdx) : EncodesFields.Statement (.derive vd va vb) :=
  fun _ => fieldsOf_assemble 0x21 vd va vb 0 (by decide) vd.isLt va.isLt vb.isLt (by decide)

theorem EncodesFields.bpekh (vd va vb : VIdx) : EncodesFields.Statement (.bpekh vd va vb) :=
  fun _ => fieldsOf_assemble 0x30 vd va vb 0 (by decide) vd.isLt va.isLt vb.isLt (by decide)

theorem EncodesFields.bpek (vd va vb : VIdx) : EncodesFields.Statement (.bpek vd va vb) :=
  fun _ => fieldsOf_assemble 0x31 vd va vb 0 (by decide) vd.isLt va.isLt vb.isLt (by decide)

theorem EncodesFields.pekv (vd va : VIdx) : EncodesFields.Statement (.pekv vd va) :=
  fun _ => fieldsOf_assemble 0x32 vd va 0 0 (by decide) vd.isLt va.isLt (by decide) (by decide)

theorem EncodesFields.peknv (vd va : VIdx) : EncodesFields.Statement (.peknv vd va) :=
  fun _ => fieldsOf_assemble 0x33 vd va 0 0 (by decide) vd.isLt va.isLt (by decide) (by decide)

theorem EncodesFields.encd (va vb : VIdx) : EncodesFields.Statement (.encd va vb) :=
  fun _ => fieldsOf_assemble 0x40 0 va vb 0 (by decide) (by decide) va.isLt vb.isLt (by decide)

theorem EncodesFields.decd (va vb : VIdx) : EncodesFields.Statement (.decd va vb) :=
  fun _ => fieldsOf_assemble 0x41 0 va vb 0 (by decide) (by decide) va.isLt vb.isLt (by decide)

theorem EncodesFields.dectrk (va vb : VIdx) : EncodesFields.Statement (.dectrk va vb) :=
  fun _ => fieldsOf_assemble 0x42 0 va vb 0 (by decide) (by decide) va.isLt vb.isLt (by decide)

end Sys2Proof.Laws
end

