-- ==== Sys2Proof/Laws/Step.lean ====
section
/-! SUPPORT. What a command and a step can do, said once. -/

namespace Sys2Proof.Machine

/-- The ways a command can end. In every case `cmd`, `pending` and `bus` stay and the working
registers end at zero (30_encoding.md R85, 60_exceptions.md R232). -/
inductive Ends (i : Instr) (s : State) : State → Prop
  /-- Completed, with a vector register written. -/
  | vector (vd : VIdx) (r : ByteVec) (e : Engine) (hd : destOf i = some vd) : Ends i s
      { s with v := s.v.set vd.val (Buf.ofBytes vcap r) vd.isLt, errcode := 0, eng := e.clear }
  /-- Completed, with the payload written. -/
  | payload (r : ByteVec) (e : Engine) (hp : touchesPayload i = true) : Ends i s
      { s with p := Buf.ofBytes pcap r, errcode := 0, eng := e.clear }
  /-- ZEROIZE. -/
  | erased (hi : i = .zeroize) : Ends i s (complete (eraseBuffers s))
  /-- CLRCNT. -/
  | counted (hi : i = .clrcnt) : Ends i s (complete (clearCounters s))
  /-- Aborted. -/
  | aborted (err : Err) (e : Engine) : Ends i s
      { s with errcode := errWord err, esticky := s.esticky ||| stickyBit err, eng := e.clear }

/-- A command with a register destination ends as such a command can. -/
theorem ends_finishV {i : Instr} {vd : VIdx} (hd : destOf i = some vd) (s : State) (x : Res ByteVec) :
    Ends i s (finishV vd s x) := by
  cases x with
  | ok r e => exact .vector vd r e hd
  | raise err e => exact .aborted err e

/-- A command with the payload as destination ends as such a command can. -/
theorem ends_finishP {i : Instr} (hp : touchesPayload i = true) (s : State) (x : Res ByteVec) :
    Ends i s (finishP s x) := by
  cases x with
  | ok r e => exact .payload r e hp
  | raise err e => exact .aborted err e

/-- What a command can do. -/
theorem exec_ends (i : Instr) (s : State) : ∃ t, exec i s = .next t ∧ Ends i s t := by
  cases i
  case zeroize => exact ⟨_, rfl, .erased rfl⟩
  case clrcnt => exact ⟨_, rfl, .counted rfl⟩
  case encd => exact ⟨_, rfl, ends_finishP rfl s _⟩
  case decd => exact ⟨_, rfl, ends_finishP rfl s _⟩
  case dectrk => exact ⟨_, rfl, ends_finishP rfl s _⟩
  all_goals exact ⟨_, rfl, ends_finishV rfl s _⟩

/-- With no input pending the block is idle (60_exceptions.md R245). -/
theorem step_idle (s : State) (h : s.pending = []) : step s = .next s := by simp [step, h]

/-- A step performs the oldest pending input. -/
theorem step_of_pending {s : State} {a : HostInput} {rest : List HostInput}
    (h : s.pending = a :: rest) : step s = perform a { s with pending := rest } := by
  simp [step, h]

/-- The address of `CMD` names `CMD` (20_memory.md R51). -/
@[simp] theorem accessTarget_cmd : accessTarget cmdAddr 4 = some .cmd := by decide

/-- The write of a command word stores it and executes it (20_memory.md R53). -/
theorem perform_commandWrite (w : Word) (s : State) :
    perform (commandWrite w) s = execute w { s with cmd := w, bus := .done } := by
  simp [perform, commandWrite, memWrite, writeCmd]

/-- The step of the instruction placed by `withFetchWord`. -/
theorem step_withFetchWord (s : State) (nbits w : Nat) :
    step (s.withFetchWord nbits w) =
      execute (tableWord nbits w) { s with cmd := tableWord nbits w, bus := .done } := by
  rw [step_of_pending (withFetchWord_pending s nbits w), perform_commandWrite]
  rfl

/-- A write to a location other than `CMD` stores or is refused; it never runs a command. -/
theorem writeStore_cases (w : Word) (t : Target) (s : State) :
    (∃ s', storeTarget s w t = some s' ∧ writeStore w t s = { s' with bus := .done }) ∨
    (storeTarget s w t = none ∧ writeStore w t s = busRefuse s) := by
  unfold writeStore
  cases h : storeTarget s w t with
  | none => exact .inr ⟨rfl, rfl⟩
  | some s' => exact .inl ⟨s', rfl, rfl⟩

end Sys2Proof.Machine
end

