-- ==== Sys2Proof/Tests/Slice0.lean ====
section
/-! SUPPORT. Tests and witnesses. Expected values are the spec's: 30_encoding.md R86 and the vectors
of 95_test_vectors.md, named by their id. A witness shows a state and operands that meet the
hypotheses of a statement, clause by clause, at the ends of the ranges. -/

namespace Sys2Proof.Tests

set_option Elab.async false

open Machine

/-! ## Helpers -/

/-- The state an outcome answers. -/
def nextOf : Host.Outcome State Fault Refusal → State
  | .next t => t
  | .fault _ | .refused _ => State.reset

/-- From reset: `V0`, `V1`, `V2 = AA`, the payload, and the environment's answers. -/
def st (a b p : ByteVec) (port : List PortAnswer) : State :=
  { ((State.reset.writeV 0 a).writeV 1 b).writeV 2 [0xAA] with
    p := Buf.ofBytes pcap p
    eng := { State.reset.eng with port := port } }

/-- The state after the host has written this command word. -/
def run (w : Nat) (s : State) : State := nextOf (step (s.withFetchWord 32 w))

/-- `s` with these accesses still to come. -/
def queued (s : State) (l : List HostInput) : State := { s with pending := l }

/-- The state after these host accesses. -/
def access (s : State) : List HostInput → State
  | [] => s
  | a :: rest => access (nextOf (step (queued s [a]))) rest

/-- A buffer of `n` bytes. -/
def len (n : Nat) : ByteVec := fillBytes n 0x11

/-- The KSN of the vectors with this transaction counter. -/
def ksn (counter : Nat) : ByteVec := encBytes 10 (0xFFFF9876543210E00000 + counter)

/-- The BDK of the vectors. -/
def bdk : ByteVec := encBytes 16 0x0123456789ABCDEFFEDCBA9876543210

/-- The IPEK of T20. -/
def ipek : ByteVec := encBytes 16 0x6AC292FAA1315B4D858AB3A3D7D5933A

/-- The key of T24. -/
def key1 : ByteVec := encBytes 16 0x042666B49184CFA368DE9628D0397BC9

/-- `V2` and the two status registers. -/
def seen (s : State) : ByteVec × Word × Word := (s.vval 2, s.errcode, s.esticky)

/-- The two request counters. -/
def counts (s : State) : Word × Word := (s.eng.sdescnt, s.eng.tdescnt)

/-- `n` answered requests, then one that fails. -/
def failAt (n : Nat) : List PortAnswer := List.replicate n .answer ++ [.fail]

/-- Every command answers a next state. -/
theorem exec_next (i : Instr) (s : State) : exec i s = .next (nextOf (exec i s)) := by
  cases i <;> rfl

/-! ## Well-formedness -/

theorem test_wf_vsub_first : (Instr.vsub 0 0 64 0).wf = false := by decide
theorem test_wf_vsub_last : (Instr.vsub 0 0 0 64).wf = false := by decide
theorem test_wf_vpadl : (Instr.vpadl 0 0 64 .x00).wf = false := by decide
theorem test_wf_vshr : (Instr.vshr 0 0 4096).wf = false := by decide

/-! ## Decoding: words written out from the encoding (R80 to R84, R86; T60 to T69c) -/

theorem test_decode_z :
    decode 0x02000000 = .ok .zeroize ∧ decode 0x03000000 = .ok .clrcnt := by decide +kernel

theorem test_decode_alu :
    decode 0x10321000 = .ok (.vand 3 2 1) ∧ decode 0x11321000 = .ok (.vor 3 2 1) ∧
    decode 0x12312000 = .ok (.vxor 3 1 2) ∧ decode 0x13100089 = .ok (.vsub 1 0 2 9) ∧
    decode 0x13100FFF = .ok (.vsub 1 0 63 63) ∧ decode 0x14FFF000 = .ok (.vcat 15 15 15) ∧
    decode 0x14321000 = .ok (.vcat 3 2 1) ∧ decode 0x1510010A = .ok (.vpadl 1 0 10 .xFF) ∧
    decode 0x15100021 = .ok (.vpadl 1 0 33 .x00) ∧ decode 0x16100015 = .ok (.vshr 1 0 21) ∧
    decode 0x16FF0FFF = .ok (.vshr 15 15 4095) := by decide +kernel

theorem test_decode_keys :
    decode 0x20321000 = .ok (.genipek 3 2 1) ∧ decode 0x21321000 = .ok (.derive 3 2 1) ∧
    decode 0x30321000 = .ok (.bpekh 3 2 1) ∧ decode 0x31321000 = .ok (.bpek 3 2 1) ∧
    decode 0x32430000 = .ok (.pekv 4 3) ∧ decode 0x33430000 = .ok (.peknv 4 3) := by decide +kernel

theorem test_decode_workflow :
    decode 0x40021000 = .ok (.encd 2 1) ∧ decode 0x41021000 = .ok (.decd 2 1) ∧
    decode 0x42021000 = .ok (.dectrk 2 1) := by decide +kernel

theorem test_decode_unassigned :
    decode 0x00000000 = .error (.unassignedOpcode 0x00) ∧
    decode 0xFFFFFFFF = .error (.unassignedOpcode 0xFF) ∧
    decode 0x01000000 = .error (.unassignedOpcode 0x01) ∧
    decode 0x04000000 = .error (.unassignedOpcode 0x04) ∧
    decode 0x17000000 = .error (.unassignedOpcode 0x17) ∧
    decode 0x22000000 = .error (.unassignedOpcode 0x22) ∧
    decode 0x34000000 = .error (.unassignedOpcode 0x34) ∧
    decode 0x43000000 = .error (.unassignedOpcode 0x43) := by decide +kernel

theorem test_decode_unused_field :
    decode 0x12312001 = .error (.unusedFieldNonzero 0x12) ∧
    decode 0x32431000 = .error (.unusedFieldNonzero 0x32) ∧
    decode 0x13101089 = .error (.unusedFieldNonzero 0x13) ∧
    decode 0x40101000 = .error (.unusedFieldNonzero 0x40) ∧
    decode 0x03000001 = .error (.unusedFieldNonzero 0x03) ∧
    decode 0x02100000 = .error (.unusedFieldNonzero 0x02) := by decide +kernel

theorem test_decode_unused_immediate :
    decode 0x1510020A = .error (.unusedImmediateBit 0x15) ∧
    decode 0x1510004A = .error (.unusedImmediateBit 0x15) := by decide +kernel

theorem test_decodeTableWord : decodeTableWord 32 0x21201000 = some (.derive 2 0 1) := by decide +kernel

theorem test_asm : asmText (.vpadl 1 0 10 .xFF) = "VPADL V1, V0, 10, 0xFF" ∧
    asmText (.vsub 1 0 2 9) = "VSUB V1, V0, 2, 9" ∧ asmText (.encd 0 1) = "ENCD V0, V1" := by
  decide +kernel

/-! ## The byte-vector unit -/

theorem test_T1_vand :
    seen (run 0x10201000 (st (ksn 3) (encBytes 10 0x1FFFFF) [] [])) = (encBytes 10 3, 0, 0) := by
  decide +kernel

theorem test_T2_vand_lengths :
    seen (run 0x10201000 (st (ksn 3) (encBytes 3 0x1FFFFF) [] [])) = ([0xAA], 3, 0x008) := by
  decide +kernel

theorem test_T4_vor :
    seen (run 0x11201000 (st (encBytes 8 0x9876543210E00000) (encBytes 8 2) [] [])) =
      (encBytes 8 0x9876543210E00002, 0, 0) := by decide +kernel

theorem test_T5_vxor :
    seen (run 0x12201000
        (st ipek (encBytes 16 0xC0C0C0C000000000C0C0C0C000000000) [] [])) =
      (encBytes 16 0xAA02523AA1315B4D454A7363D7D5933A, 0, 0) := by decide +kernel

theorem test_T6b_vxor_destination_is_source :
    (run 0x12001000 (st [0x0F, 0x0F] [0x00, 0xFF] [] [])).vval 0 = [0x0F, 0xF0] := by
  decide +kernel

theorem test_T7_vsub :
    (run 0x13100089 (st (ksn 3) [0xAA] [] [])).vval 1 = encBytes 8 0x9876543210E00003 := by
  decide +kernel

theorem test_T9_vsub_end :
    ((run 0x1310008A (st (ksn 3) [0xAA] [] [])).vval 1,
      (run 0x1310008A (st (ksn 3) [0xAA] [] [])).errcode) = ([0xAA], 4) := by decide +kernel

theorem test_T11_vcat :
    seen (run 0x14201000 (st (key1.take 8) (key1.drop 8) [] [])) = (key1, 0, 0) := by
  decide +kernel

theorem test_T13_vcat_overflow :
    seen (run 0x14201000 (st (len 24) (len 16) [] [])) = ([0xAA], 8, 0x100) := by decide +kernel

theorem test_T14_vpadl :
    (run 0x1510010A (st (encBytes 8 0x9876543210E00003) [] [] [])).vval 1 = ksn 3 := by
  decide +kernel

theorem test_T17_vpadl_overflow :
    (run 0x15100021 (st (encBytes 8 0x9876543210E00003) [0xAA] [] [])).esticky = 0x100 := by
  decide +kernel

theorem test_T19b_vshr :
    (run 0x16100015 (st (ksn 3) [] [] [])).vval 1 = encBytes 10 0x000007FFFCC3B2A19087 := by
  decide +kernel

theorem test_T19e_vshr_logical :
    (run 0x16000003 (st (encBytes 4 0xFFFFFFFF) [] [] [])).vval 0 = encBytes 4 0x1FFFFFFF := by
  decide +kernel

/-! ## Keys, with the reference cipher -/

theorem test_T22_genipek :
    seen (run 0x20201000 (st (ksn 0x1FFFFF) bdk [] [])) = (ipek, 0, 0) := by decide +kernel

theorem test_genipek_ksn_first :
    seen (run 0x20201000 (st (len 8) (len 8) [] [])) = ([0xAA], 3, 0x008) := by decide +kernel

theorem test_T24_derive :
    seen (run 0x21201000 (st (ksn 1) bdk [] [])) = (key1, 0, 0) := by decide +kernel

theorem test_derive_fails_at_third :
    (seen (run 0x21201000 (st (ksn 3) bdk [] (failAt 2))),
      counts (run 0x21201000 (st (ksn 3) bdk [] (failAt 2)))) = (([0xAA], 5, 0x020), 1, 2) := by
  decide +kernel

theorem test_T30_bpekh :
    seen (run 0x30201000 (st ipek (ksn 1) [] [])) = (key1.drop 8, 0, 0) := by decide +kernel

theorem test_T31_bpek :
    (run 0x31301000 (st ipek (ksn 1) [] [])).vval 3 = key1 := by decide +kernel

theorem test_T36_bpekh_key_first :
    seen (run 0x30201000 (st (len 8) (len 2) [] [])) = ([0xAA], 1, 0x002) := by decide +kernel

theorem test_T36_bpek :
    seen (run 0x31201000 (st (len 16) (len 16) [] [])) = ([0xAA], 3, 0x008) := by decide +kernel

theorem test_T33_pekv :
    (run 0x32100000 (st key1 [] [] [])).vval 1 =
      encBytes 16 0x448D3F076D8304036A55A3D7E0055A78 := by decide +kernel

theorem test_T34_peknv :
    (seen (run 0x33200000 (st key1 [] [] [.fail])),
      counts (run 0x33200000 (st key1 [] [] [.fail]))) =
      ((encBytes 16 0x042666B4917BCFA368DE9628D0C67BC9, 0, 0), 0, 0) := by decide +kernel

theorem test_T36_peknv :
    seen (run 0x33200000 (st (len 24) [] [] [])) = ([0xAA], 1, 0x002) := by decide +kernel

/-! ## The workflow -/

theorem test_T42_encd :
    (run 0x40001000 (st (ksn 1) ipek (fillBytes 8 0) [])).pval = encBytes 8 0x156B9F6DA3961232 := by
  decide +kernel

theorem test_T45_encd_key_first :
    (run 0x40001000 (st (len 9) (len 8) [0x01] [])).errcode = 1 := by decide +kernel

theorem test_T42_decd :
    (run 0x41001000 (st (ksn 1) ipek (encBytes 8 0x156B9F6DA3961232) [])).pval =
      fillBytes 8 0 := by decide +kernel

theorem test_decd_fails_at_fourth :
    ((run 0x41001000 (st (ksn 3) ipek [] (failAt 3))).esticky,
      counts (run 0x41001000 (st (ksn 3) ipek [] (failAt 3)))) = (0x020, 2, 2) := by decide +kernel

theorem test_T44_dectrk :
    (run 0x42001000 (st (ksn 0) bdk (fillBytes 8 0) [])).pval = encBytes 8 0x42117BBCB8155831 := by
  decide +kernel

theorem test_T45_dectrk_masked :
    ((run 0x42001000 (st (ksn 1) bdk (len 5) [])).esticky,
      counts (run 0x42001000 (st (ksn 1) bdk (len 5) []))) = (0x040, 2, 2) := by decide +kernel

/-! ## Housekeeping -/

/-- Registers, payload, counters and `ESTICKY` loaded (T50, T51). -/
def loaded : State :=
  { st (len 10) (len 32) (len 7) [] with
    esticky := 0x008
    eng := { State.reset.eng with sdescnt := 6, tdescnt := 2 } }

theorem test_T50_zeroize :
    ((run 0x02000000 loaded).v, (run 0x02000000 loaded).p, (run 0x02000000 loaded).esticky,
      counts (run 0x02000000 loaded)) = (State.reset.v, State.reset.p, 0x008, 6, 2) := by
  decide +kernel

theorem test_T51_clrcnt :
    ((run 0x03000000 loaded).v, (run 0x03000000 loaded).esticky,
      counts (run 0x03000000 loaded)) = (loaded.v, 0x008, 0, 0) := by decide +kernel

theorem test_T52_zeroize_illegal :
    ((run 0x02100000 loaded).v, (run 0x02100000 loaded).errcode,
      (run 0x02100000 loaded).esticky) = (loaded.v, 7, 0x088) := by decide +kernel

/-! ## The register window (T70 to T79) -/

theorem test_T71_reads :
    [0x000, 0x004, 0x008, 0x00C, 0x010, 0x014, 0x100, 0x120, 0x800, 0x4FC, 0x8FC].map
      (memRead State.reset · 4) = List.replicate 11 (some 0) := by decide +kernel

theorem test_T78_reserved :
    [0x01C, 0x104, 0x11C, 0x500, 0x7FC, 0x900, 0xFFC, 0x002].map (memRead State.reset · 4) =
      List.replicate 8 none := by decide +kernel

theorem test_T72_load :
    (access State.reset [.write 0x100 4 10, .write 0x120 4 0xFFFF2222, .write 0x124 4 0x22707000,
      .write 0x128 4 0x00010000]).vval 0 = encBytes 10 0xFFFF2222227070000001 := by decide +kernel

theorem test_T73_length_keeps_data :
    (access State.reset [.write 0x120 4 0xAABBCCDD]).vval 0 = [] ∧
    (access State.reset [.write 0x120 4 0xAABBCCDD, .write 0x100 4 2, .write 0x100 4 4]).vval 0 =
      [0xAA, 0xBB, 0xCC, 0xDD] := by decide +kernel

theorem test_T74_length_limits :
    (access State.reset [.write 0x100 4 33]).bus = .busError ∧
    (access State.reset [.write 0x100 4 32]).vval 0 = fillBytes 32 0 ∧
    (access State.reset [.write 0x014 4 257]).bus = .busError ∧
    (access State.reset [.write 0x014 4 5]).pval = fillBytes 5 0 := by decide +kernel

theorem test_T76_read_only :
    [0x004, 0x008, 0x00C, 0x010, 0x018].map (fun a => (access State.reset [.write a 4 0]).bus) =
      List.replicate 5 .busError := by decide +kernel

theorem test_T79_slack :
    (access State.reset (macroLDV 0 [0x0F, 0x0F] ++ macroLDV 1 [0x00, 0xFF] ++
      [macroHW 0x128 0xDEADBEEF, macroCMD (.vxor 2 0 1), macroHR 0x1A0])).bus =
        .data 0x0FF00000 ∧
    (access State.reset (macroLDV 0 [0x0F, 0x0F] ++ macroLDV 1 [0x00, 0xFF] ++
      [macroHW 0x128 0xDEADBEEF, macroCMD (.vxor 0 0 1), macroHR 0x128])).bus =
        .data 0 := by decide +kernel

/-! ## Witnesses: the window and the inputs -/

theorem witness_resetInput : (queued loaded [.reset]).pending = [.reset] := rfl

theorem witness_idRegister :
    (queued loaded [.write 0x018 4 0xFFFFFFFF]).pending = [.write 0x018 4 0xFFFFFFFF] := rfl

theorem witness_windowReads : (0 < 8 ∧ 7 < 8) ∧ (0 < pcap / 4 ∧ 63 < pcap / 4) := by decide

theorem witness_readChangesNoState :
    (queued loaded [.read 0x100 4]).pending = [.read 0x100 4] ∧
    memRead (queued loaded [.read 0x100 4]) 0x100 4 = some 10 ∧
    memRead (queued loaded [.read 0x8FC 4]) 0x8FC 4 = some 0 ∧
    memRead (queued loaded [.read 0x900 4]) 0x900 4 = none ∧
    memRead (queued loaded [.read 0x100 2]) 0x100 2 = none := by decide +kernel

theorem witness_refusedRead : RefusedAccess (.read 0x000 1) ∧ RefusedAccess (.read 0x002 4) ∧
    RefusedAccess (.read 0x01C 4) ∧ RefusedAccess (.read 0x0FC 4) ∧ RefusedAccess (.read 0x104 4) ∧
    RefusedAccess (.read 0x4DC 4) ∧ RefusedAccess (.read 0x500 4) ∧ RefusedAccess (.read 0x7FC 4) ∧
    RefusedAccess (.read 0x900 4) ∧ RefusedAccess (.read 0xFFC 4) := by
  and_intros <;> (simp only [RefusedAccess]; decide +kernel)

theorem witness_acceptedRead : ¬ RefusedAccess (.read 0x018 4) ∧ ¬ RefusedAccess (.read 0x100 4) ∧
    ¬ RefusedAccess (.read 0x120 4) ∧ ¬ RefusedAccess (.read 0x4C0 4) ∧
    ¬ RefusedAccess (.read 0x4FC 4) ∧ ¬ RefusedAccess (.read 0x800 4) ∧
    ¬ RefusedAccess (.read 0x8FC 4) ∧ ¬ RefusedAccess .reset := by
  and_intros <;> (simp only [RefusedAccess]; decide +kernel)

theorem witness_refusedWrite : RefusedAccess (.write 0x004 4 0) ∧ RefusedAccess (.write 0x010 4 0) ∧
    RefusedAccess (.write 0x018 4 0) ∧ RefusedAccess (.write 0x100 4 33) ∧
    RefusedAccess (.write 0x4C0 4 33) ∧ RefusedAccess (.write 0x014 4 257) ∧
    RefusedAccess (.write 0x121 4 0) := by
  and_intros <;> (simp only [RefusedAccess]; decide +kernel)

theorem witness_acceptedWrite : ¬ RefusedAccess (.write 0x000 4 0) ∧
    ¬ RefusedAccess (.write 0x100 4 32) ∧ ¬ RefusedAccess (.write 0x4C0 4 32) ∧
    ¬ RefusedAccess (.write 0x014 4 256) ∧ ¬ RefusedAccess (.write 0x4FC 4 0xFFFFFFFF) ∧
    ¬ RefusedAccess (.write 0x8FC 4 0xFFFFFFFF) := by
  and_intros <;> (simp only [RefusedAccess]; decide +kernel)

theorem witness_refusedAccess :
    ((queued loaded [.write 0x100 4 33]).pending = [.write 0x100 4 33] ∧
      RefusedAccess (.write 0x100 4 33)) ∧
    ((queued loaded [.read 0x8FC 4]).pending = [.read 0x8FC 4] ∧
      ¬ RefusedAccess (.read 0x8FC 4)) := by
  and_intros <;> first | rfl | (simp only [RefusedAccess]; decide +kernel)

theorem witness_hostWrite :
    (queued loaded [.write (vlenAddr 15) 4 32]).pending = [.write (vlenAddr 15) 4 32] ∧
    (32 : Word).toNat ≤ vcap ∧
    (queued loaded [.write 0x014 4 256]).pending = [.write 0x014 4 256] ∧
    (256 : Word).toNat ≤ pcap ∧
    (queued loaded [.write (vdataAddr 15 7) 4 1]).pending = [.write 0x4FC 4 1] ∧
    (queued loaded [.write (pdataAddr 63) 4 1]).pending = [.write 0x8FC 4 1] := by decide +kernel

/-- A write to this address and a read of it, both still to come. -/
def writeRead (a : BitVec 12) (w : Word) : State := queued loaded [.write a 4 w, .read a 4]

theorem witness_readReturnsLatestWrite :
    (step (writeRead 0x000 0x02000000) = .next (nextOf (step (writeRead 0x000 0x02000000))) ∧
      (nextOf (step (writeRead 0x000 0x02000000))).bus = .done) ∧
    (step (writeRead 0x4C0 32) = .next (nextOf (step (writeRead 0x4C0 32))) ∧
      (nextOf (step (writeRead 0x4C0 32))).bus = .done) ∧
    (step (writeRead 0x8FC 0xDEADBEEF) = .next (nextOf (step (writeRead 0x8FC 0xDEADBEEF))) ∧
      (nextOf (step (writeRead 0x8FC 0xDEADBEEF))).bus = .done) :=
  ⟨⟨rfl, by decide +kernel⟩, ⟨rfl, by decide +kernel⟩, ⟨rfl, by decide +kernel⟩⟩

/-! ## Witnesses: decoding and the step -/

theorem witness_decodeOfEncode : (Instr.vsub 15 15 63 63).wf = true ∧
    (Instr.vpadl 15 15 63 .xFF).wf = true ∧ (Instr.vshr 15 15 4095).wf = true ∧
    (Instr.zeroize).wf = true := by decide

theorem witness_encodeOfDecode : decode 0x16FF0FFF = .ok (.vshr 15 15 4095) ∧
    decode 0x02000000 = .ok .zeroize := by decide

theorem witness_wordsDecode : opcodeRows[0]? = some (0xFFFFFFFF, 0x02000000) ∧
    (0x02000000 : Word) &&& 0xFFFFFFFF = 0x02000000 ∧
    opcodeRows[17]? = some (0xFFF00FFF, 0x42000000) ∧
    (0x420FF000 : Word) &&& 0xFFF00FFF = 0x42000000 := by decide

theorem witness_illegalWord :
    (queued loaded [commandWrite 0]).pending = [commandWrite 0] ∧
    decode 0 = .error (.unassignedOpcode 0) ∧
    decode 0x02100000 = .error (.unusedFieldNonzero 2) := by decide +kernel

theorem witness_stepRuns :
    (queued loaded [commandWrite 0x10201000]).pending = [commandWrite 0x10201000] ∧
    decode 0x10201000 = .ok (.vand 2 0 1) := by decide +kernel

/-! ## Witnesses: aborts and status -/

theorem witness_abortIsPrecise :
    step (queued loaded [commandWrite 0]) = .next (nextOf (step (queued loaded [commandWrite 0]))) ∧
    (nextOf (step (queued loaded [commandWrite 0]))).errcode ≠ 0 := ⟨rfl, by decide +kernel⟩

/-- A PEKV whose second request fails, still to come. -/
def failing : State := queued (st key1 [] [] (failAt 1)) [commandWrite 0x32200000]

theorem witness_abortAfterRequests :
    step failing = .next (nextOf (step failing)) ∧ (nextOf (step failing)).errcode ≠ 0 :=
  ⟨rfl, by decide +kernel⟩

theorem witness_estickyOnlyGrows :
    (queued loaded [commandWrite 0]).pending.head? ≠ some .reset ∧
    step (queued loaded [commandWrite 0]) =
      .next (nextOf (step (queued loaded [commandWrite 0]))) := ⟨by decide +kernel, rfl⟩

/-- A VSHR, still to come, in a state where nothing has failed. -/
def shifting : State := queued (st (len 32) [] [] []) [commandWrite 0x16100001]

theorem witness_zeroEsticky :
    shifting.pending.head? ≠ some .reset ∧ step shifting = .next (nextOf (step shifting)) ∧
    (nextOf (step shifting)).NoFailure ∧ shifting.pending = [commandWrite 0x16100001] :=
  ⟨by decide +kernel, rfl, by decide +kernel, by decide +kernel⟩

theorem witness_invariant :
    State.Inv failing ∧ step failing = .next (nextOf (step failing)) :=
  ⟨by decide +kernel, rfl⟩

/-! ## Witnesses: every command -/

theorem witness_commandWrite :
    (len 0).length ≤ vcap ∧ (len 32).length ≤ vcap ∧ (len 256).length ≤ pcap ∧
    (1 : VIdx) ≠ 0 ∧ ((len 31).length ≤ 31 ∧ 31 < vcap) ∧ ((len 255).length ≤ 255 ∧ 255 < pcap) := by
  decide +kernel

theorem witness_onlyTheDestination :
    exec (.vcat 2 0 0) loaded = .next (nextOf (exec (.vcat 2 0 0) loaded)) ∧
    Instr.vcat 2 0 0 ≠ .zeroize ∧ destOf (.vcat 2 0 0) ≠ some 3 ∧
    touchesPayload (.vcat 2 0 0) = false := ⟨rfl, by decide⟩

/-- `loaded` with another slack byte and other working registers. -/
def stale : State :=
  { access loaded [.write 0x128 4 0x11110077] with
    bus := .idle
    eng := { loaded.eng with work := { Work.zero with r3 := len 8 } } }

theorem witness_valuesOnly :
    (∀ r : VIdx, loaded.vval r = stale.vval r) ∧ loaded.pval = stale.pval ∧
    loaded.eng.clear = stale.eng.clear ∧ loaded.v ≠ stale.v ∧ loaded.eng ≠ stale.eng ∧
    exec (.vcat 2 0 0) loaded = .next (nextOf (exec (.vcat 2 0 0) loaded)) ∧
    exec (.vcat 2 0 0) stale = .next (nextOf (exec (.vcat 2 0 0) stale)) :=
  ⟨by decide +kernel, by decide +kernel, by decide +kernel, by decide +kernel, by decide +kernel,
    rfl, rfl⟩

/-! ## Witnesses: the byte-vector unit -/

/-- The lengths of `V0` and `V1`. -/
def lens (s : State) : Nat × Nat := ((s.vval 0).length, (s.vval 1).length)

theorem witness_lengths : lens (st (len 0) (len 32) [] []) = (0, 32) ∧
    lens (st (len 32) (len 32) [] []) = (32, 32) := by decide +kernel

theorem witness_elementwise :
    (((st (len 32) (len 32) [] []).vval 0).length = ((st (len 32) (len 32) [] []).vval 1).length) ∧
    (((st [] [] [] []).vval 0).length = ((st [] [] [] []).vval 1).length) ∧
    (((st (len 31) (len 32) [] []).vval 0).length ≠ ((st (len 31) (len 32) [] []).vval 1).length) :=
  by decide +kernel

theorem witness_vsub :
    (0 ≤ 0 ∧ 0 < ((st (len 1) [] [] []).vval 0).length) ∧
    (0 ≤ 31 ∧ 31 < ((st (len 32) [] [] []).vval 0).length) ∧
    (31 ≥ ((st (len 31) [] [] []).vval 0).length) ∧ (5 > 4) ∧
    (0 ≥ ((st [] [] [] []).vval 0).length) := by decide +kernel

theorem witness_vcat :
    ((st (len 16) (len 16) [] []).vval 0).length + ((st (len 16) (len 16) [] []).vval 1).length
      ≤ 32 ∧
    ((st (len 17) (len 16) [] []).vval 0).length + ((st (len 17) (len 16) [] []).vval 1).length
      > 32 := by decide +kernel

theorem witness_vpadl :
    (32 ≤ 32 ∧ ((st (len 32) [] [] []).vval 0).length ≤ 32) ∧
    (0 ≤ 32 ∧ ((st [] [] [] []).vval 0).length ≤ 0) ∧ 33 > 32 ∧
    (31 ≤ 32 ∧ ((st (len 32) [] [] []).vval 0).length > 31) := by decide +kernel

theorem witness_vshrByteByByte : 0 < 8 ∧ 7 < 8 ∧ (0 < 1 ∧ 0 < ((st (len 1) [] [] []).vval 0).length) ∧
    (31 ≤ 31 ∧ 31 < ((st (len 32) [] [] []).vval 0).length) := by decide +kernel

theorem witness_shiftsCompose :
    exec (.vshr 2 0 9) loaded = .next (nextOf (exec (.vshr 2 0 9) loaded)) := rfl

theorem witness_byteUnitInverses :
    ((2 : VIdx) ≠ 1 ∧
      ((st (len 32) (len 32) [] []).vval 0).length = ((st (len 32) (len 32) [] []).vval 1).length ∧
      exec (.vxor 2 0 1) (st (len 32) (len 32) [] []) =
        .next (nextOf (exec (.vxor 2 0 1) (st (len 32) (len 32) [] [])))) ∧
    (0 < ((st (len 1) (len 31) [] []).vval 0).length ∧
      ((st (len 1) (len 31) [] []).vval 0).length + ((st (len 1) (len 31) [] []).vval 1).length
        ≤ 32 ∧
      exec (.vcat 2 0 1) (st (len 1) (len 31) [] []) =
        .next (nextOf (exec (.vcat 2 0 1) (st (len 1) (len 31) [] [])))) :=
  ⟨⟨by decide, by decide +kernel, rfl⟩, by decide +kernel, by decide +kernel, rfl⟩

/-! ## Witnesses: keys and workflow -/

/-- A state with `V0` and `V1` of these lengths. -/
def lenSt (a b : Nat) (port : List PortAnswer) : State := st (len a) (len b) [] port

theorem witness_genipek :
    (lens (lenSt 9 16 []) = (9, 16) ∧ lens (lenSt 11 24 []) = (11, 24)) ∧
    (lens (lenSt 10 15 []) = (10, 15) ∧ lens (lenSt 10 17 []) = (10, 17) ∧
      lens (lenSt 10 23 []) = (10, 23) ∧ lens (lenSt 10 25 []) = (10, 25)) ∧
    (lens (lenSt 10 16 []) = (10, 16) ∧ Answered 2 (lenSt 10 16 []).eng) ∧
    (lens (lenSt 10 24 (failAt 2)) = (10, 24) ∧ Answered 2 (lenSt 10 24 (failAt 2)).eng) ∧
    (lens (lenSt 10 16 (failAt 0)) = (10, 16) ∧ FailsAfter 0 (lenSt 10 16 (failAt 0)).eng) ∧
    (lens (lenSt 10 24 (failAt 1)) = (10, 24) ∧ FailsAfter 1 (lenSt 10 24 (failAt 1)).eng) := by
  decide +kernel

theorem witness_ipekIgnoresTheCounter : (ksn 0).length = 10 ∧ (ksn 0x1FFFFF).length = 10 ∧
    beInt (ksn 0) / 2 ^ 21 = beInt (ksn 0x1FFFFF) / 2 ^ 21 ∧ ksn 0 ≠ ksn 0x1FFFFF := by
  decide +kernel

theorem witness_ipekOfDoubledKey : (len 8).length = 8 ∧ (fillBytes 8 0x22).length = 8 := by decide

/-- A state for DERIVE and DECTRK: this counter, a BDK of this length, a payload of this length. -/
def deriveSt (counter keyLen payload : Nat) (port : List PortAnswer) : State :=
  st (ksn counter) (len keyLen) (len payload) port

/-- The weight of `V0`'s counter, and the lengths. -/
def weight (s : State) : Nat × Nat × Nat := (counterWeight (s.vval 0), lens s)

theorem witness_derive :
    (weight (deriveSt 0 16 0 []) = (0, 10, 16) ∧ Answered (2 + 2 * 0) (deriveSt 0 16 0 []).eng) ∧
    (weight (deriveSt 0x1FFFFF 24 0 (failAt 44)) = (21, 10, 24) ∧
      Answered (2 + 2 * 21) (deriveSt 0x1FFFFF 24 0 (failAt 44)).eng) := by decide +kernel

theorem witness_deriveErrors :
    (lens (lenSt 9 8 []) = (9, 8) ∧ lens (lenSt 10 8 []) = (10, 8)) ∧
    (weight (deriveSt 3 16 0 (failAt 0)) = (2, 10, 16) ∧
      FailsAfter 0 (deriveSt 3 16 0 (failAt 0)).eng) ∧
    (weight (deriveSt 0 24 0 (failAt 1)) = (0, 10, 24) ∧ 1 < 2 + 2 * 0 ∧
      FailsAfter 1 (deriveSt 0 24 0 (failAt 1)).eng) ∧
    (weight (deriveSt 0x1FFFFF 16 0 (failAt 43)) = (21, 10, 16) ∧ 43 < 2 + 2 * 21 ∧
      FailsAfter 43 (deriveSt 0x1FFFFF 16 0 (failAt 43)).eng) := by decide +kernel

theorem witness_deriveAtCounterZero :
    beInt ((deriveSt 0 16 0 []).vval 0) % 2 ^ 21 = 0 := by decide +kernel

/-- A cipher unit that answers with the data: it meets the port's contract. -/
def echo : Cipher := ⟨fun _ b => b, fun _ d => d, fun _ d => d⟩

/-- It never fails; this reading of `ksnMod`. -/
def echoConfig (r : KsnModReading) : Config := ⟨r, false, echo⟩

theorem echo_lawful : echo.Lawful :=
  ⟨fun _ _ _ h => h, fun _ _ _ _ => rfl, fun _ _ _ _ => rfl, fun _ _ _ _ => rfl⟩

/-- A value was answered. -/
def isOk {α : Type} : Res α → Bool
  | .ok _ _ => true
  | .raise _ _ => false

theorem exists_of_isOk {α : Type} {x : Res α} (h : isOk x = true) : ∃ r e, x = .ok r e := by
  cases x with
  | ok r e => exact ⟨r, e, rfl⟩
  | raise err e => cases h

theorem witness_loopCount :
    (∃ r e, deriveKey (echoConfig .a) (ksn 0x155555) (len 16) State.reset.eng = .ok r e) ∧
    (∃ r e, deriveKey (echoConfig .a) (ksn 0) (len 24) State.reset.eng = .ok r e) :=
  ⟨exists_of_isOk (by decide +kernel), exists_of_isOk (by decide +kernel)⟩

theorem witness_loopCountCommand :
    exec (.derive 2 0 1) (deriveSt 1 16 0 []) = .next (nextOf (exec (.derive 2 0 1) (deriveSt 1 16 0 []))) ∧
    (nextOf (exec (.derive 2 0 1) (deriveSt 1 16 0 []))).errcode = 0 := ⟨rfl, by decide +kernel⟩

theorem witness_oneBitCounter : (echoConfig .a).ksnModReading = .a ∧
    (echoConfig .a).cipherMayFail = false ∧ (echoConfig .a).cipher.Lawful ∧
    ((ksn 1).length = 10 ∧ (len 16).length = 16 ∧ 0 < 21 ∧ beInt (ksn 1) % 2 ^ 21 = 2 ^ 0) ∧
    ((ksn 0x100000).length = 10 ∧ (len 24).length = 24 ∧ 20 < 21 ∧
      beInt (ksn 0x100000) % 2 ^ 21 = 2 ^ 20) :=
  ⟨rfl, rfl, echo_lawful, by decide +kernel, by decide +kernel⟩

theorem witness_bpekh_bpek :
    (lens (lenSt 15 9 []) = (15, 9) ∧ lens (lenSt 17 10 []) = (17, 10)) ∧
    (lens (lenSt 16 9 []) = (16, 9) ∧ lens (lenSt 16 11 []) = (16, 11)) ∧
    (lens (lenSt 16 10 (failAt 1)) = (16, 10) ∧ Answered 1 (lenSt 16 10 (failAt 1)).eng ∧
      FailsAfter 1 (lenSt 16 10 (failAt 1)).eng) ∧
    (lens (lenSt 16 10 (failAt 2)) = (16, 10) ∧ Answered 2 (lenSt 16 10 (failAt 2)).eng) ∧
    (lens (lenSt 16 10 (failAt 0)) = (16, 10) ∧ FailsAfter 0 (lenSt 16 10 (failAt 0)).eng) := by
  decide +kernel

theorem witness_pekv_peknv :
    (lens (lenSt 15 0 []) = (15, 0) ∧ lens (lenSt 17 0 []) = (17, 0)) ∧
    (lens (lenSt 16 0 (failAt 2)) = (16, 0) ∧ Answered 2 (lenSt 16 0 (failAt 2)).eng) ∧
    (lens (lenSt 16 0 (failAt 0)) = (16, 0) ∧ FailsAfter 0 (lenSt 16 0 (failAt 0)).eng) ∧
    (lens (lenSt 16 0 (failAt 1)) = (16, 0) ∧ FailsAfter 1 (lenSt 16 0 (failAt 1)).eng) := by
  decide +kernel

/-- A state for ENCD and DECD with a payload of this length. -/
def workSt (payload : Nat) (port : List PortAnswer) : State := st (len 10) (len 16) (len payload) port

/-- The lengths of `V0`, `V1` and the payload. -/
def lens3 (s : State) : Nat × Nat × Nat := (s.pval.length, lens s)

theorem witness_encd_decd :
    (lens (lenSt 9 15 []) = (9, 15) ∧ lens (lenSt 10 17 []) = (10, 17)) ∧
    (lens (lenSt 9 16 []) = (9, 16) ∧ lens (lenSt 11 16 []) = (11, 16)) ∧
    (lens3 (workSt 7 (failAt 0)) = (7, 10, 16) ∧ 0 < 4 ∧ FailsAfter 0 (workSt 7 (failAt 0)).eng) ∧
    (lens3 (workSt 8 (failAt 3)) = (8, 10, 16) ∧ 3 < 4 ∧ FailsAfter 3 (workSt 8 (failAt 3)).eng) ∧
    (lens3 (workSt 255 (failAt 4)) = (255, 10, 16) ∧ 255 % 8 ≠ 0 ∧
      Answered 4 (workSt 255 (failAt 4)).eng) ∧
    (lens3 (workSt 256 (failAt 4)) = (256, 10, 16) ∧ 256 % 8 = 0 ∧
      FailsAfter 4 (workSt 256 (failAt 4)).eng) ∧
    (lens3 (workSt 0 (failAt 5)) = (0, 10, 16) ∧ Answered 5 (workSt 0 (failAt 5)).eng) := by
  decide +kernel

theorem witness_dectrk :
    (lens (lenSt 9 8 []) = (9, 8) ∧ lens (lenSt 10 15 []) = (10, 15)) ∧
    (weight (deriveSt 1 16 1 (failAt 0)) = (1, 10, 16) ∧
      FailsAfter 0 (deriveSt 1 16 1 (failAt 0)).eng) ∧
    (weight (deriveSt 1 24 8 (failAt 3)) = (1, 10, 24) ∧ 3 < 2 + 2 * 1 ∧
      FailsAfter 3 (deriveSt 1 24 8 (failAt 3)).eng) ∧
    (weight (deriveSt 1 16 7 (failAt 4)) = (1, 10, 16) ∧
      (deriveSt 1 16 7 (failAt 4)).pval.length % 8 ≠ 0 ∧
      Answered (2 + 2 * 1) (deriveSt 1 16 7 (failAt 4)).eng) ∧
    (weight (deriveSt 1 16 8 (failAt 4)) = (1, 10, 16) ∧
      (deriveSt 1 16 8 (failAt 4)).pval.length % 8 = 0 ∧
      FailsAfter (2 + 2 * 1) (deriveSt 1 16 8 (failAt 4)).eng) ∧
    (weight (deriveSt 1 16 256 (failAt 5)) = (1, 10, 16) ∧
      (deriveSt 1 16 256 (failAt 5)).pval.length % 8 = 0 ∧
      Answered (3 + 2 * 1) (deriveSt 1 16 256 (failAt 5)).eng) := by decide +kernel

theorem witness_dectrkMasks :
    exec (.dectrk 0 1) (lenSt 9 8 []) = .next (nextOf (exec (.dectrk 0 1) (lenSt 9 8 []))) ∧
    exec (.dectrk 0 1) (deriveSt 0 16 0 []) =
      .next (nextOf (exec (.dectrk 0 1) (deriveSt 0 16 0 []))) := ⟨rfl, rfl⟩

/-- After ENCD on the empty payload (T42, second row). -/
def encrypted : State := nextOf (exec (.encd 0 1) (st (ksn 1) ipek [] []))

theorem witness_encdDecd :
    exec (.encd 0 1) (st (ksn 1) ipek [] []) = .next encrypted ∧ encrypted.errcode = 0 ∧
    (encrypted.vval 0 = encrypted.vval 0 ∧ encrypted.vval 1 = encrypted.vval 1 ∧
      encrypted.p = encrypted.p) ∧ Answered 5 encrypted.eng :=
  ⟨rfl, by decide +kernel, ⟨rfl, rfl, rfl⟩, by decide +kernel⟩

theorem witness_roundTripForEveryCipher : (echoConfig .b).cipher.Lawful ∧
    (echoConfig .b).cipherMayFail = false ∧
    (∃ r e, encryptData (echoConfig .b) (ksn 1) ipek (len 8) State.reset.eng = .ok r e) ∧
    (∃ r e, encryptData (echoConfig .a) (ksn 1) ipek (len 256) State.reset.eng = .ok r e) :=
  ⟨echo_lawful, rfl, exists_of_isOk (by decide +kernel), exists_of_isOk (by decide +kernel)⟩

theorem witness_desParityBits :
    (∀ j < 64, j % 8 ≠ 7 →
      (0x133457799BBCDFF1 : BitVec 64).getMsbD j = (0x123456789ABCDEF0 : BitVec 64).getMsbD j) ∧
    (0x133457799BBCDFF1 : BitVec 64) ≠ 0x123456789ABCDEF0 := by decide +kernel

/-! ## Witnesses: macros -/

theorem witness_loadMacros :
    ((len 32).length ≤ vcap ∧
      (queued loaded (macroLDV 15 (len 32) ++ [.reset])).pending =
        macroLDV 15 (len 32) ++ [.reset]) ∧
    ((len 256).length ≤ pcap ∧
      (queued loaded (macroLDP (len 256) ++ [])).pending = macroLDP (len 256) ++ []) ∧
    ([] : ByteVec).length ≤ vcap := ⟨⟨by decide, rfl⟩, ⟨by decide +kernel, rfl⟩, by decide⟩

end Sys2Proof.Tests
end

section
/-! Proofs about 10_state.md, first part: what a register holds after an update, and what a command
and a step do to the status registers. -/

namespace Sys2Proof.Machine

/-! Registers after an update (10_state.md R21 to R25) -/

/-- A written buffer holds the value's bytes, then zeros (10_state.md R22, R25). -/
theorem byte_ofBytes (cap : Nat) (v : ByteVec) (k : Nat) (h : v.length ≤ cap) :
    (Buf.ofBytes cap v).byte k = v.getD k 0 := by
  simp only [Buf.byte, Buf.ofBytes, toList_padData cap v h, List.getD_eq_getElem?_getD]
  by_cases hk : k < v.length
  · rw [List.getElem?_append_left hk]
  · rw [List.getElem?_append_right (by omega), List.getElem?_replicate,
      List.getElem?_eq_none (by omega)]
    split <;> rfl

@[simp] theorem len_empty (cap : Nat) : (Buf.empty cap).len = 0 := rfl

@[simp] theorem value_empty (cap : Nat) : (Buf.empty cap).value = [] := by
  simp [Buf.value]

@[simp] theorem byte_empty (cap k : Nat) : (Buf.empty cap).byte k = 0 := by
  simp only [Buf.byte, Buf.empty, Vector.toList_replicate, List.getD_eq_getElem?_getD,
    List.getElem?_replicate]
  split <;> rfl

@[simp] theorem vreg_reset (i : VIdx) : State.reset.vreg i = Buf.empty vcap := by
  simp [State.vreg, State.reset]

theorem vreg_writeV_self (s : State) (i : VIdx) (r : ByteVec) :
    (s.writeV i r).vreg i = Buf.ofBytes vcap r := vreg_setVreg_self s i _

theorem vreg_writeV_of_ne (s : State) {i j : VIdx} (r : ByteVec) (h : i ≠ j) :
    (s.writeV i r).vreg j = s.vreg j := vreg_setVreg_of_ne s _ h

/-- `afterV` and a command's register write leave the same vector registers. -/
theorem vreg_afterV (s : State) (i j : VIdx) (r : ByteVec) (ns nt : Nat) :
    (afterV s i r ns nt).vreg j = (s.writeV i r).vreg j := rfl

/-- A property all vector registers have is kept when one of them is replaced by a buffer that has
it. -/
theorem vreg_setVreg_all {P : Buf vcap → Prop} {s : State} {i : VIdx} {b : Buf vcap}
    (hs : ∀ j, P (s.vreg j)) (hb : P b) (j : VIdx) : P ((s.setVreg i b).vreg j) := by
  by_cases hij : i = j
  · subst hij
    rwa [vreg_setVreg_self]
  · rw [vreg_setVreg_of_ne s b hij]
    exact hs j

/-! The engine after a command (10_state.md R30, R33) -/

/-- A command that issued no request leaves the engine as it was, its working registers zero. -/
@[simp] theorem ranEngine_zero (e : Engine) : ranEngine e 0 0 = e.clear := by
  simp [ranEngine, Engine.clear]

/-- A completed command with a register destination, as the statements describe its next state. -/
theorem finishV_ok_eq_afterV (vd : VIdx) (s : State) (r : ByteVec) {e : Engine} {ns nt : Nat}
    (he : e.clear = ranEngine s.eng ns nt) : finishV vd s (.ok r e) = afterV s vd r ns nt := by
  simp [finishV, complete, afterV, State.writeV, State.setVreg, he]

/-- An aborted command with a register destination, as the statements describe its next state. -/
theorem finishV_raise_eq_afterAbort (vd : VIdx) (s : State) (err : Err) {e : Engine} {ns nt : Nat}
    (he : e.clear = ranEngine s.eng ns nt) :
    finishV vd s (.raise err e) = afterAbort s (errCode err) ns nt := by
  simp [finishV, abort, afterAbort, errWord, stickyBit, he]

/-! What an input does, by kind (20_memory.md R52, R53, 70_reset_and_hazards.md R261) -/

/-- An input runs a command, stores to (or is refused at) another location, changes only the bus's
answer, or resets. -/
theorem perform_cases (a : HostInput) (s : State) :
    (∃ w, perform a s = execute w { s with cmd := w, bus := .done }) ∨
    (∃ w tgt, perform a s = .next (writeStore w tgt s)) ∨
    (∃ b, perform a s = .next { s with bus := b }) ∨
    (a = .reset ∧ perform a s = .next (resetBlock s)) := by
  cases a with
  | read addr width => exact .inr (.inr (.inl ⟨_, rfl⟩))
  | write addr width w =>
    simp only [perform, memWrite]
    split
    · exact .inl ⟨w, rfl⟩
    · exact .inr (.inl ⟨w, _, rfl⟩)
    · exact .inr (.inr (.inl ⟨.busError, rfl⟩))
  | reset => exact .inr (.inr (.inr ⟨rfl, rfl⟩))

/-- What an accepted write to a location other than `CMD` can store (20_memory.md R53). -/
theorem storeTarget_cases {s s' : State} {w : Word} {tgt : Target}
    (h : storeTarget s w tgt = some s') :
    (∃ i b, s' = s.setVreg i b ∧ (b.len ≤ vcap ∨ b.len = (s.vreg i).len)) ∨
    (∃ b, s' = { s with p := b } ∧ (b.len ≤ pcap ∨ b.len = s.p.len)) := by
  cases tgt with
  | plen =>
    simp only [storeTarget, Option.ite_none_left_eq_some, Option.some.injEq] at h
    obtain ⟨hle, rfl⟩ := h
    exact .inr ⟨s.p.setLen w.toNat, rfl, .inl (Nat.not_lt.mp hle)⟩
  | vlen i =>
    simp only [storeTarget, Option.ite_none_left_eq_some, Option.some.injEq] at h
    obtain ⟨hle, rfl⟩ := h
    exact .inl ⟨i, (s.vreg i).setLen w.toNat, rfl, .inl (Nat.not_lt.mp hle)⟩
  | vdata i k => exact .inl ⟨i, _, (Option.some.inj h).symm, .inr (len_setWord _ k w)⟩
  | pdata k => exact .inr ⟨_, (Option.some.inj h).symm, .inr (len_setWord _ k w)⟩
  | cmd | errcode | esticky | sdescnt | tdescnt | id => simp [storeTarget] at h

/-- A write to a location other than `CMD` leaves the status registers and the engine alone. -/
theorem writeStore_status (w : Word) (tgt : Target) (s : State) :
    (writeStore w tgt s).errcode = s.errcode ∧ (writeStore w tgt s).esticky = s.esticky ∧
      (writeStore w tgt s).eng = s.eng := by
  obtain ⟨s', hs', hw⟩ | ⟨-, hw⟩ := writeStore_cases w tgt s <;> rw [hw]
  · obtain ⟨i, b, rfl, -⟩ | ⟨b, rfl, -⟩ := storeTarget_cases hs' <;> exact ⟨rfl, rfl, rfl⟩
  · exact ⟨rfl, rfl, rfl⟩

/-- An access that names a location reads it (20_memory.md R52). -/
theorem memRead_of_target {addr : BitVec 12} {width : Nat} {tgt : Target}
    (h : accessTarget addr width = some tgt) (s : State) :
    memRead s addr width = some (readTarget s tgt) := by
  simp [memRead, h]

/-- The step at a write that names a location other than `CMD` (20_memory.md R53). -/
theorem step_write_of_target {s : State} {addr : BitVec 12} {width : Nat} {w : Word} {tgt : Target}
    {rest : List HostInput} (hp : s.pending = .write addr width w :: rest)
    (h : accessTarget addr width = some tgt) (hne : tgt ≠ .cmd) :
    step s = .next (writeStore w tgt { s with pending := rest }) := by
  rw [step_of_pending hp, perform, memWrite, h]
  cases tgt with
  | cmd => exact absurd rfl hne
  | _ => rfl

/-! The status registers after a command (10_state.md R27, R28) -/

/-- What a command does to `ERRCODE` and `ESTICKY`: it completes with 0 and sets no bit, or it
raises an error, whose code it reports and whose bit it sets (60_exceptions.md R232). -/
def CommandStatus (s t : State) : Prop :=
  (t.errcode = 0 ∧ t.esticky = s.esticky) ∨
  ∃ err, t.errcode = errWord err ∧ t.esticky = s.esticky ||| stickyBit err

theorem Ends.commandStatus {i : Instr} {s t : State} (h : Ends i s t) : CommandStatus s t := by
  cases h with
  | vector | payload | erased | counted => exact .inl ⟨rfl, rfl⟩
  | aborted err => exact .inr ⟨err, rfl, rfl⟩

/-- Every command word, legal or not, ends as a command does (30_encoding.md R85). -/
theorem execute_commandStatus (w : Word) (s : State) :
    ∃ t, execute w s = .next t ∧ CommandStatus s t := by
  unfold execute
  split
  · next i _ =>
    obtain ⟨t, ht, hends⟩ := exec_ends i s
    exact ⟨t, ht, hends.commandStatus⟩
  · exact ⟨_, rfl, .inr ⟨.illegalCommand, rfl, rfl⟩⟩

/-- No error has an empty sticky bit. -/
theorem stickyBit_ne_zero (err : Err) : stickyBit err ≠ 0 := by cases err <;> decide

/-- A command only adds bits to `ESTICKY`. -/
theorem CommandStatus.esticky_grows {s t : State} (h : CommandStatus s t) :
    s.esticky &&& t.esticky = s.esticky := by
  obtain ⟨-, he⟩ | ⟨err, -, he⟩ := h <;> rw [he]
  · exact BitVec.and_self
  · ext k hk
    simpa using Or.inl

/-- If `ESTICKY` is zero after a command, it was zero before and the command completed. -/
theorem CommandStatus.of_esticky_zero {s t : State} (h : CommandStatus s t) (ht : t.esticky = 0) :
    s.esticky = 0 ∧ t.errcode = 0 := by
  obtain ⟨hc, he⟩ | ⟨err, -, he⟩ := h
  · exact ⟨he ▸ ht, hc⟩
  · rw [he] at ht
    exact absurd (BitVec.or_eq_zero_iff.mp ht).2 (stickyBit_ne_zero err)

/-- A step that is no reset ends a command or leaves both status registers as they were. -/
theorem step_status {s t : State} (hr : s.pending.head? ≠ some .reset) (h : step s = .next t) :
    CommandStatus s t ∨ (t.errcode = s.errcode ∧ t.esticky = s.esticky) := by
  cases hp : s.pending with
  | nil =>
    rw [step_idle s hp] at h
    cases h
    exact .inr ⟨rfl, rfl⟩
  | cons a rest =>
    rw [step_of_pending hp] at h
    obtain ⟨w, ha⟩ | ⟨w, tgt, ha⟩ | ⟨b, ha⟩ | ⟨rfl, -⟩ := perform_cases a { s with pending := rest }
    · obtain ⟨t', ht', hst⟩ :=
        execute_commandStatus w { s with pending := rest, cmd := w, bus := .done }
      rw [ha, ht'] at h
      cases h
      exact .inl hst
    · rw [ha] at h
      cases h
      obtain ⟨hc, he, -⟩ := writeStore_status w tgt { s with pending := rest }
      exact .inr ⟨hc, he⟩
    · rw [ha] at h
      cases h
      exact .inr ⟨rfl, rfl⟩
    · simp [hp] at hr

/-- The step at the write of a command word executes the word (20_memory.md R53). -/
theorem step_commandWrite {s : State} {w : Word} {rest : List HostInput}
    (h : s.pending = commandWrite w :: rest) :
    step s = execute w { s with pending := rest, cmd := w, bus := .done } := by
  rw [step_of_pending h, perform_commandWrite]

/-- Settles O17: a step runs a command, which only adds bits, or leaves `ESTICKY` alone. -/
theorem estickyOnlyGrows : Obligations.EstickyOnlyGrows := by
  intro s t hr h
  obtain hst | ⟨-, he⟩ := step_status hr h
  · exact hst.esticky_grows
  · rw [he, BitVec.and_self]

/-- Settles O18: a command that fails sets a bit of `ESTICKY`, so none set means none failed. -/
theorem zeroEstickyMeansNoFailure : Obligations.ZeroEstickyMeansNoFailure := by
  intro s t hr h hz
  refine ⟨?_, fun w rest hp => ?_⟩
  · obtain hst | ⟨-, he⟩ := step_status hr h
    · exact (hst.of_esticky_zero hz).1
    · exact he.symm.trans hz
  · obtain ⟨t', ht', hst⟩ :=
      execute_commandStatus w { s with pending := rest, cmd := w, bus := .done }
    rw [step_commandWrite hp, ht'] at h
    cases h
    exact (hst.of_esticky_zero hz).2

/-- Settles O14, from what the write of a command word does. -/
theorem stepRunsTheDecodedCommand : Obligations.StepRunsTheDecodedCommand := by
  intro s w i rest hp hw
  rw [step_commandWrite hp, execute, hw]

/-- Settles O20, from what `Buf.ofBytes` holds in and beyond the value's length. -/
theorem commandWriteLeavesNoStaleByte : Obligations.CommandWriteLeavesNoStaleByte := by
  intro s r ns nt
  refine ⟨fun i hr => ⟨?_, ?_, fun k hk _ => ?_, fun j hj => ?_⟩,
    fun hr => ⟨value_ofBytes pcap r hr, rfl, fun k hk _ => ?_, fun _ => rfl⟩⟩
  · rw [State.vval, vreg_afterV, vreg_writeV_self, value_ofBytes vcap r hr]
  · rw [vreg_afterV, vreg_writeV_self, len_ofBytes]
  · rw [vreg_afterV, vreg_writeV_self, byte_ofBytes vcap r k hr, List.getD_eq_default _ _ hk]
  · rw [vreg_afterV, vreg_writeV_of_ne s r hj.symm]
  · rw [afterP_p, byte_ofBytes pcap r k hr, List.getD_eq_default _ _ hk]

/-- Settles O21, by the ways a command can end. -/
theorem onlyTheDestinationChanges : Obligations.OnlyTheDestinationChanges := by
  intro i s t h
  obtain ⟨t', ht', hends⟩ := exec_ends i s
  rw [ht'] at h
  cases h
  cases hends with
  | vector vd r e hd =>
    refine ⟨fun _ j hj => ?_, fun _ => rfl, rfl, rfl, rfl, rfl⟩
    exact vreg_writeV_of_ne s r (fun hij => hj (hij ▸ hd))
  | payload r e hp => exact ⟨fun _ _ _ => rfl, fun hn => by simp [hp] at hn, rfl, rfl, rfl, rfl⟩
  | erased hi =>
    subst hi
    exact ⟨fun hn => absurd rfl hn, fun hn => by simp [touchesPayload] at hn, rfl, rfl, rfl, rfl⟩
  | counted => exact ⟨fun _ _ _ => rfl, fun _ => rfl, rfl, rfl, rfl, rfl⟩
  | aborted => exact ⟨fun _ _ _ => rfl, fun _ => rfl, rfl, rfl, rfl, rfl⟩

/-! The register `ID` (10_state.md R31) and the state after reset (R38) -/

@[simp] theorem accessTarget_id : accessTarget 0x018 4 = some .id := by decide

/-- Settles O3: the address names `ID`, which reads as its constant and stores nothing. -/
theorem idRegisterIsConstant : Obligations.IdRegisterIsConstant := fun s =>
  ⟨memRead_of_target accessTarget_id s, fun _ _ hp =>
    step_write_of_target hp accessTarget_id (by decide)⟩

/-- An element-wise command on empty operands completes with the empty vector. -/
theorem formVVV_elementwise_reset (f : ByteVec → ByteVec → ByteVec) (hf : f [] [] = [])
    (vd va vb : VIdx) :
    formVVV (elementwise f) vd va vb State.reset = afterV State.reset vd [] 0 0 := by
  simp only [formVVV, State.vval, vreg_reset, value_empty, elementwise, ne_eq, not_true, if_false,
    hf]
  exact finishV_ok_eq_afterV _ _ _ (ranEngine_zero _).symm

/-- GENIPEK on an empty KSN aborts with `LengthMismatch`. -/
theorem formVVV_generateIpek_reset (vd va vb : VIdx) :
    formVVV (generateIpek dke) vd va vb State.reset = afterAbort State.reset 3 0 0 := by
  simp only [formVVV, State.vval, vreg_reset, value_empty, generateIpek]
  exact finishV_raise_eq_afterAbort _ _ _ (ranEngine_zero _).symm

/-- Settles O1: every buffer is `Buf.empty`, so the commands run on empty operands. -/
theorem resetLeavesEveryRegisterZero : Obligations.ResetLeavesEveryRegisterZero := by
  refine ⟨fun i => by simp [State.vval], rfl, fun k _ => byte_empty pcap k, rfl, rfl, rfl, rfl, rfl,
    (idRegisterIsConstant State.reset).1, rfl, rfl, rfl, rfl, rfl, rfl, fun vd va vb => ?_⟩
  exact ⟨congrArg Host.Outcome.next (formVVV_elementwise_reset andBytes rfl vd va vb),
    congrArg Host.Outcome.next (formVVV_elementwise_reset orBytes rfl vd va vb),
    congrArg Host.Outcome.next (formVVV_elementwise_reset xorBytes rfl vd va vb),
    congrArg Host.Outcome.next (formVVV_generateIpek_reset vd va vb)⟩

end Sys2Proof.Machine
end

section
/-! Proofs about 10_state.md, second part: a host write changes its own location only (R23, R25). -/

namespace Sys2Proof.Machine

/-! The addresses of the window (20_memory.md R51) -/

theorem toNat_vlenAddr (i : VIdx) : (vlenAddr i).toNat = 0x100 + 0x40 * i.val := by
  have hi : i.val < 16 := i.isLt
  rw [vlenAddr, BitVec.toNat_ofNat]
  omega

theorem toNat_vdataAddr (i : VIdx) {k : Nat} (hk : k < 8) :
    (vdataAddr i k).toNat = 0x120 + 0x40 * i.val + 4 * k := by
  have hi : i.val < 16 := i.isLt
  rw [vdataAddr, BitVec.toNat_ofNat]
  omega

theorem toNat_pdataAddr {k : Nat} (hk : k < pcap / 4) : (pdataAddr k).toNat = 0x800 + 4 * k := by
  have hk' : k < 64 := hk
  rw [pdataAddr, BitVec.toNat_ofNat]
  omega

/-- An aligned address in the block of vector register `i` names what its offset names. -/
theorem accessTarget_vregBlock {addr : BitVec 12} (i : VIdx) {o : Nat}
    (ha : addr.toNat = 0x100 + 0x40 * i.val + o) (ho : o < 0x40) (h4 : o % 4 = 0) :
    accessTarget addr 4 = locateVreg i o := by
  have hi : i.val < 16 := i.isLt
  have hreg : (addr.toNat - 0x100) / 0x40 = i.val := by omega
  have hoff : (addr.toNat - 0x100) % 0x40 = o := by omega
  rw [accessTarget, if_pos rfl]
  unfold locate
  simp only
  iterate 8 rw [if_neg (by omega)]
  rw [dif_pos (by omega)]
  simp only [hreg, hoff]

theorem accessTarget_vlen (i : VIdx) : accessTarget (vlenAddr i) 4 = some (.vlen i) :=
  accessTarget_vregBlock i (o := 0) (toNat_vlenAddr i) (by decide) rfl

theorem accessTarget_vdata (i : VIdx) {k : Nat} (hk : k < 8) :
    accessTarget (vdataAddr i k) 4 = some (.vdata i k) := by
  have ha := toNat_vdataAddr i hk
  rw [accessTarget_vregBlock i (o := 0x20 + 4 * k) (by omega) (by omega) (by omega), locateVreg,
    if_neg (by omega), if_pos (by omega), show (0x20 + 4 * k - 0x20) / 4 = k by omega]

theorem accessTarget_pdata {k : Nat} (hk : k < pcap / 4) :
    accessTarget (pdataAddr k) 4 = some (.pdata k) := by
  have ha := toNat_pdataAddr hk
  rw [accessTarget, if_pos rfl]
  unfold locate
  simp only
  iterate 8 rw [if_neg (by omega)]
  rw [dif_neg (by omega), if_pos (by omega), show ((pdataAddr k).toNat - 0x800) / 4 = k by omega]

theorem accessTarget_plen : accessTarget 0x014 4 = some .plen := by decide

/-! What the write of a data word leaves (10_state.md R23, 20_memory.md R54) -/

/-- Byte `j` of a word, most significant first, as a quotient of its number. -/
theorem wordByte_eq (w : Word) {j : Nat} (hj : j < 4) :
    wordByte w j = BitVec.ofNat 8 (w.toNat / 256 ^ (3 - j)) := by
  apply BitVec.eq_of_toNat_eq
  rw [wordByte, BitVec.extractLsb'_toNat, BitVec.toNat_ofNat, Nat.shiftRight_eq_div_pow,
    show (256 : Nat) = 2 ^ 8 from rfl, ← Nat.pow_mul, show 24 - 8 * j = 8 * (3 - j) by omega]

/-- The write of data word `k` replaces its four bytes, and nothing else. -/
theorem wordReplaced_setWord {cap : Nat} (b : Buf cap) (k : Nat) (w : Word) :
    WordReplaced b (b.setWord k w) k w := by
  refine ⟨len_setWord b k w, fun j hj => ?_⟩
  simp only [Buf.setWord, byte_setByte, hj, and_true]
  by_cases hk : j / 4 = k
  · rw [if_pos hk]
    obtain h | h | h | h : j = 4 * k ∨ j = 4 * k + 1 ∨ j = 4 * k + 2 ∨ j = 4 * k + 3 := by omega
    all_goals
      subst h
      simp [wordByte_eq]
  · rw [if_neg hk, if_neg (by omega), if_neg (by omega), if_neg (by omega), if_neg (by omega)]

/-- Settles O7: each listed address names its location, and the store there is a length or a word. -/
theorem hostWriteStoresOnlyItsLocation : Obligations.HostWriteStoresOnlyItsLocation := by
  refine fun s w rest => ⟨fun i hp hw => ?_, fun hp hw => ?_, fun i k hk hp => ?_,
    fun k hk hp => ?_⟩
  · rw [step_write_of_target hp (accessTarget_vlen i) nofun]
    simp only [writeStore, storeTarget, if_neg (Nat.not_lt.mpr hw)]
    rfl
  · rw [step_write_of_target hp accessTarget_plen nofun]
    simp only [writeStore, storeTarget, if_neg (Nat.not_lt.mpr hw)]
    rfl
  · exact ⟨_, wordReplaced_setWord _ k w,
      step_write_of_target hp (accessTarget_vdata i hk) nofun⟩
  · exact ⟨_, wordReplaced_setWord _ k w,
      step_write_of_target hp (accessTarget_pdata hk) nofun⟩

end Sys2Proof.Machine
end

section
/-! Proofs about 10_state.md, third part: the invariant is met by reset and kept by every step (R21,
R25, R27, R28, R33, R38). A command keeps it because its result fits its destination. -/

namespace Sys2Proof.Machine

/-! How long a result can be -/

/-- If the computation completes, its result has at most `n` bytes. -/
def Res.FitsIn (n : Nat) (x : Res ByteVec) : Prop := ∀ r e, x = .ok r e → r.length ≤ n

theorem fitsIn_ok {n : Nat} {r : ByteVec} (e : Engine) (h : r.length ≤ n) :
    (Res.ok r e).FitsIn n := by
  intro r' e' h'
  cases h'
  exact h

theorem fitsIn_raise (n : Nat) (err : Err) (e : Engine) : (Res.raise err e).FitsIn n := nofun

theorem Res.FitsIn.mono {m n : Nat} {x : Res ByteVec} (h : x.FitsIn m) (hmn : m ≤ n) : x.FitsIn n :=
  fun r e hr => (h r e hr).trans hmn

/-- A sequence fits if its second part does, whatever its first part completes with. -/
theorem fitsIn_andThen {α : Type} {n : Nat} {x : Res α} {f : α → Engine → Res ByteVec}
    (h : ∀ a e, x = .ok a e → (f a e).FitsIn n) : (x.andThen f).FitsIn n := by
  intro r e hr
  obtain ⟨a, e1, hx, hf⟩ := andThen_eq_ok_iff.mp hr
  exact h a e1 hx r e hf

theorem Res.FitsIn.mask {n : Nat} {x : Res ByteVec} (h : x.FitsIn n) : x.mask.FitsIn n := by
  cases x with
  | ok r e => exact h
  | raise err e => exact fitsIn_raise n _ e

/-! The byte-vector unit (40_bytevector_alu.md R100 to R107) -/

/-- An element-wise result is no longer than the operands, if the function's is not. -/
theorem fitsIn_elementwise {n : Nat} {f : ByteVec → ByteVec → ByteVec} {a b : ByteVec} (e : Engine)
    (h : (f a b).length ≤ n) : (elementwise f a b e).FitsIn n := by
  unfold elementwise
  split
  · exact fitsIn_raise n _ e
  · exact fitsIn_ok e h

theorem fitsIn_subrange {n first last : Nat} {a : ByteVec} (e : Engine) (h : a.length ≤ n) :
    (subrange first last a e).FitsIn n := by
  unfold subrange
  split
  · exact fitsIn_raise n _ e
  · exact fitsIn_ok e (by rw [length_subBytes]; omega)

theorem fitsIn_concat (a b : ByteVec) (e : Engine) : (concat a b e).FitsIn vcap := by
  unfold concat
  split
  · exact fitsIn_raise vcap _ e
  · exact fitsIn_ok e (by rw [List.length_append]; omega)

theorem fitsIn_padLeft (length : Nat) (fill : FillByte) (a : ByteVec) (e : Engine) :
    (padLeft length fill a e).FitsIn vcap := by
  unfold padLeft
  split
  · exact fitsIn_raise vcap _ e
  · split
    · exact fitsIn_raise vcap _ e
    · exact fitsIn_ok e (by rw [List.length_append, length_fillBytes]; omega)

/-! The cipher unit (46_des_reference.md R218, 41_cipher_port.md R122 to R124) -/

theorem length_blocksData (bs : List (BitVec 64)) : (blocksData bs).length = 8 * bs.length := by
  simp [blocksData, List.length_flatMap, blockBytes, Nat.mul_comm]

theorem length_cbcEnc (enc : BitVec 64 → BitVec 64) (prev : BitVec 64) (ds : List (BitVec 64)) :
    (cbcEnc enc prev ds).length = ds.length := by
  induction ds generalizing prev with
  | nil => rfl
  | cons d ds ih => rw [cbcEnc, List.length_cons, ih, List.length_cons]

theorem length_cbcDec (dec : BitVec 64 → BitVec 64) (prev : BitVec 64) (cs : List (BitVec 64)) :
    (cbcDec dec prev cs).length = cs.length := by
  induction cs generalizing prev with
  | nil => rfl
  | cons c cs ih => rw [cbcDec, List.length_cons, ih, List.length_cons]

theorem length_dataBlocks (d : ByteVec) : (dataBlocks d).length = d.length / 8 := by
  simp [dataBlocks]

/-- The reference cipher answers the whole blocks of the data, and no more. -/
theorem length_refTdesCbcE (k d : ByteVec) : (refTdesCbcE k d).length = 8 * (d.length / 8) := by
  rw [refTdesCbcE, length_blocksData, length_cbcEnc, length_dataBlocks]

theorem length_refTdesCbcD (k d : ByteVec) : (refTdesCbcD k d).length = 8 * (d.length / 8) := by
  rw [refTdesCbcD, length_blocksData, length_cbcDec, length_dataBlocks]

/-- Neither direction of triple DES answers more bytes than it was given. -/
theorem fitsIn_tripleDesEncrypt {n : Nat} {data : ByteVec} (key : ByteVec) (e : Engine)
    (h : data.length ≤ n) : (tripleDesEncrypt dke data key e).FitsIn n := by
  intro r e' hr
  obtain ⟨-, -, rfl, -⟩ := tripleDesEncrypt_ok hr
  have hlen : (dke.cipher.tdesCbcE (expandKey key) data).length = 8 * (data.length / 8) :=
    length_refTdesCbcE _ _
  omega

theorem fitsIn_tripleDesDecrypt {n : Nat} {data : ByteVec} (key : ByteVec) (e : Engine)
    (h : data.length ≤ n) : (tripleDesDecrypt dke data key e).FitsIn n := by
  intro r e' hr
  obtain ⟨-, -, rfl, -⟩ := tripleDesDecrypt_ok hr
  have hlen : (dke.cipher.tdesCbcD (expandKey key) data).length = 8 * (data.length / 8) :=
    length_refTdesCbcD _ _
  omega

/-- Two triple-DES results of at most 8 bytes each make at most 16. -/
theorem fitsIn_tdesPair {a b : ByteVec} (ka kb : ByteVec) (e : Engine) (ha : a.length ≤ 8)
    (hb : b.length ≤ 8) :
    ((tripleDesEncrypt dke a ka e).andThen fun left e1 =>
      (tripleDesEncrypt dke b kb e1).andThen fun right e2 => .ok (left ++ right) e2).FitsIn 16 := by
  refine fitsIn_andThen fun left e1 hl => fitsIn_andThen fun right e2 hr => fitsIn_ok e2 ?_
  have hleft := fitsIn_tripleDesEncrypt ka e ha left e1 hl
  have hright := fitsIn_tripleDesEncrypt kb e1 hb right e2 hr
  rw [List.length_append]
  omega

/-! Keys (42_key_derivation.md R143, R146, 43_key_construction.md R162 to R165) -/

theorem length_rightHalf_le (key : ByteVec) : (rightHalf key).length ≤ 8 := by
  rw [rightHalf, length_subBytes]
  omega

/-- What is XORed into a right half has at most 8 bytes left. -/
theorem length_xorBytes_rightHalf_le (a key : ByteVec) : (xorBytes a (rightHalf key)).length ≤ 8 := by
  have := length_rightHalf_le key
  rw [length_xorBytes]
  omega

theorem fitsIn_generateIpek (ksn bdk : ByteVec) (e : Engine) :
    (generateIpek dke ksn bdk e).FitsIn 16 := by
  unfold generateIpek
  split
  · exact fitsIn_raise 16 _ e
  · have hcore : (subBytes (zeroCounter ksn) 0 7).length ≤ 8 := by rw [length_subBytes]; omega
    exact fitsIn_tdesPair _ _ e hcore hcore

/-- A completed update of `REG2` leaves at most 8 bytes in it. -/
theorem updateReg2_ok_length {c : Config} {e e' : Engine} {u : Unit}
    (h : updateReg2 c e = .ok u e') : e'.work.reg2.length ≤ 8 := by
  obtain ⟨enc, e2, -, hf⟩ := andThen_eq_ok_iff.mp h
  cases hf
  exact length_xorBytes_rightHalf_le enc _

/-- A completed update of `REG1` leaves at most 8 bytes in it, and `REG2` as it was. -/
theorem updateReg1_ok_length {c : Config} {e e' : Engine} {u : Unit}
    (h : updateReg1 c e = .ok u e') : e'.work.reg1.length ≤ 8 ∧ e'.work.reg2 = e.work.reg2 := by
  obtain ⟨enc, e2, hdes, hf⟩ := andThen_eq_ok_iff.mp h
  obtain ⟨-, -, -, rest, rfl⟩ := singleDesEncrypt_ok hdes
  cases hf
  exact ⟨length_xorBytes_rightHalf_le enc _, rfl⟩

/-- A completed key update leaves a key of at most 16 bytes. -/
theorem keyUpdate_ok_length {c : Config} {e e' : Engine} {u : Unit}
    (h : keyUpdate c e = .ok u e') : e'.work.curkey.length ≤ 16 := by
  obtain ⟨_, e1, hreg2, h1⟩ := andThen_eq_ok_iff.mp h
  obtain ⟨_, e2, hreg1, h2⟩ := andThen_eq_ok_iff.mp h1
  cases h2
  have hlen2 := updateReg2_ok_length hreg2
  obtain ⟨hlen1, hkeep⟩ := updateReg1_ok_length hreg1
  rw [joinKey_work_curkey, List.length_append, hkeep]
  exact Nat.add_le_add hlen1 hlen2

/-- A pass of the derivation loop keeps the bound on the key. -/
theorem derivePass_ok_length {c : Config} {e e' : Engine} {u : Unit}
    (h : derivePass c e = .ok u e') (hk : e.work.curkey.length ≤ 16) :
    e'.work.curkey.length ≤ 16 := by
  unfold derivePass at h
  split at h
  · cases h
    exact hk
  · obtain ⟨_, e1, hupd, hf⟩ := andThen_eq_ok_iff.mp h
    cases hf
    rw [shiftMask_work_curkey]
    exact keyUpdate_ok_length hupd

theorem deriveLoop_ok_length {c : Config} {n : Nat} {e e' : Engine} {u : Unit}
    (h : deriveLoop c n e = .ok u e') (hk : e.work.curkey.length ≤ 16) :
    e'.work.curkey.length ≤ 16 := by
  induction n generalizing e with
  | zero =>
    cases h
    exact hk
  | succ n ih =>
    unfold deriveLoop at h
    split at h
    · cases h
      exact hk
    · obtain ⟨_, e1, hpass, hloop⟩ := andThen_eq_ok_iff.mp h
      exact ih hloop (derivePass_ok_length hpass hk)

theorem fitsIn_deriveKey (ksn bdk : ByteVec) (e : Engine) : (deriveKey dke ksn bdk e).FitsIn 16 := by
  unfold deriveKey
  split
  · exact fitsIn_raise 16 _ e
  · exact fitsIn_andThen fun ipek e1 hipek => fitsIn_andThen fun _ e2 hloop =>
      fitsIn_ok e2 (deriveLoop_ok_length hloop (fitsIn_generateIpek _ _ _ ipek e1 hipek))

theorem fitsIn_basePekHalf (c : Config) (key ksn : ByteVec) (e : Engine) :
    (basePekHalf c key ksn e).FitsIn 8 := by
  unfold basePekHalf
  split
  · exact fitsIn_raise 8 _ e
  · split
    · exact fitsIn_raise 8 _ e
    · refine fitsIn_andThen fun enc e1 _ => fitsIn_ok e1 ?_
      rw [length_xorBytes]
      exact (Nat.min_le_left _ _).trans (length_rightHalf_le key)

theorem fitsIn_basePek (c : Config) (key ksn : ByteVec) (e : Engine) :
    (basePek c key ksn e).FitsIn 16 := by
  refine fitsIn_andThen fun first e1 h1 => fitsIn_andThen fun second e2 h2 => fitsIn_ok e2 ?_
  have hfirst := fitsIn_basePekHalf c _ _ _ first e1 h1
  have hsecond := fitsIn_basePekHalf c _ _ _ second e2 h2
  rw [List.length_append]
  omega

/-- A half of a PIN key has at most 8 bytes. -/
theorem length_xorBytes_pinConst_le (a : ByteVec) : (xorBytes a pinConst).length ≤ 8 := by
  rw [length_xorBytes, length_pinConst]
  omega

theorem fitsIn_pekWithVariant (key : ByteVec) (e : Engine) :
    (pekWithVariant dke key e).FitsIn 16 := by
  unfold pekWithVariant
  split
  · exact fitsIn_raise 16 _ e
  · exact fitsIn_tdesPair _ _ e (length_xorBytes_pinConst_le _) (length_xorBytes_pinConst_le _)

theorem fitsIn_pekNoVariant (key : ByteVec) (e : Engine) : (pekNoVariant key e).FitsIn 16 := by
  unfold pekNoVariant
  split
  · exact fitsIn_raise 16 _ e
  · refine fitsIn_ok e ?_
    have hleft := length_xorBytes_pinConst_le (leftHalf key)
    have hright := length_xorBytes_pinConst_le (rightHalf key)
    rw [pinKey, List.length_append]
    omega

/-! The workflow (44_workflow.md R182 to R184) -/

theorem fitsIn_encryptData {n : Nat} (ksn ipek : ByteVec) {p : ByteVec} (e : Engine)
    (h : p.length ≤ n) : (encryptData dke ksn ipek p e).FitsIn n :=
  fitsIn_andThen fun dataKey e1 _ => fitsIn_tripleDesEncrypt dataKey e1 h

theorem fitsIn_decryptData {n : Nat} (ksn ipek : ByteVec) {p : ByteVec} (e : Engine)
    (h : p.length ≤ n) : (decryptData dke ksn ipek p e).FitsIn n :=
  fitsIn_andThen fun dataKey e1 _ => fitsIn_tripleDesDecrypt dataKey e1 h

theorem fitsIn_decryptTrack {n : Nat} (ksn bdk : ByteVec) {p : ByteVec} (e : Engine)
    (h : p.length ≤ n) : (decryptTrack dke ksn bdk p e).FitsIn n :=
  Res.FitsIn.mask <| fitsIn_andThen fun _ _ _ => fitsIn_andThen fun dataKey e2 _ =>
    fitsIn_tripleDesDecrypt dataKey e2 h

/-! The invariant at the end of a command (30_encoding.md R85, 60_exceptions.md R232) -/

/-- Completing meets the invariant where the lengths fit and `ESTICKY` holds no stray bit. -/
theorem inv_complete {s : State} (hv : ∀ i, (s.vreg i).len ≤ vcap) (hp : s.p.len ≤ pcap)
    (hsticky : s.esticky &&& ~~~0x1FE = 0) : (complete s).Inv :=
  ⟨hv, hp, Nat.zero_le 8, hsticky, fun h => absurd rfl h, rfl⟩

/-- Aborting keeps the invariant: the error's code is in the table and its own bit gets set. -/
theorem inv_abort (err : Err) {s : State} (hv : ∀ i, (s.vreg i).len ≤ vcap) (hp : s.p.len ≤ pcap)
    (hsticky : s.esticky &&& ~~~0x1FE = 0) : (abort err s).Inv := by
  obtain ⟨hcode, -, hle⟩ := errWord_toNat err
  obtain ⟨hbit, hmask⟩ := stickyBit_bits err
  refine ⟨hv, hp, ?_, ?_, fun _ => ?_, rfl⟩
  · rw [abort_errcode, hcode]
    exact hle
  · rw [abort_esticky, BitVec.and_comm, BitVec.and_or_distrib_left, BitVec.and_comm, hsticky,
      BitVec.and_comm, hmask]
    rfl
  · rw [abort_errcode, abort_esticky, BitVec.getLsbD_or, hbit, Bool.or_true]

theorem inv_finishV {s : State} (hs : s.Inv) (vd : VIdx) {x : Res ByteVec} (hx : x.FitsIn vcap) :
    (finishV vd s x).Inv := by
  obtain ⟨hv, hp, -, hsticky, -, -⟩ := hs
  cases x with
  | ok r e =>
    exact inv_complete (vreg_setVreg_all (P := fun b => b.len ≤ vcap) hv (hx r e rfl)) hp hsticky
  | raise err e => exact inv_abort err hv hp hsticky

theorem inv_finishP {s : State} (hs : s.Inv) {x : Res ByteVec} (hx : x.FitsIn pcap) :
    (finishP s x).Inv := by
  obtain ⟨hv, hp, -, hsticky, -, -⟩ := hs
  cases x with
  | ok r e => exact inv_complete hv (hx r e rfl) hsticky
  | raise err e => exact inv_abort err hv hp hsticky

/-- Erasing leaves every register empty. -/
theorem inv_erase {s : State} (hs : s.Inv) : (complete (eraseBuffers s)).Inv := by
  obtain ⟨-, -, -, hsticky, -, -⟩ := hs
  refine inv_complete (fun i => ?_) (Nat.zero_le pcap) hsticky
  simp [State.vreg]

theorem inv_clearCounters {s : State} (hs : s.Inv) : (complete (clearCounters s)).Inv := by
  obtain ⟨hv, hp, -, hsticky, -, -⟩ := hs
  exact inv_complete hv hp hsticky

/-- Every command keeps the invariant. -/
theorem exec_keeps_inv (i : Instr) {s : State} (hs : s.Inv) : ∃ t, exec i s = .next t ∧ t.Inv := by
  have hv := length_vval_le s
  have hp := length_pval_le s
  have h16 : 16 ≤ vcap := by decide
  cases i with
  | zeroize => exact ⟨_, rfl, inv_erase hs⟩
  | clrcnt => exact ⟨_, rfl, inv_clearCounters hs⟩
  | vand vd va vb =>
    exact ⟨_, rfl, inv_finishV hs vd (fitsIn_elementwise _
      (by rw [length_andBytes]; exact (Nat.min_le_left _ _).trans (hv va)))⟩
  | vor vd va vb =>
    exact ⟨_, rfl, inv_finishV hs vd (fitsIn_elementwise _
      (by rw [length_orBytes]; exact (Nat.min_le_left _ _).trans (hv va)))⟩
  | vxor vd va vb =>
    exact ⟨_, rfl, inv_finishV hs vd (fitsIn_elementwise _
      (by rw [length_xorBytes]; exact (Nat.min_le_left _ _).trans (hv va)))⟩
  | vsub vd va first last => exact ⟨_, rfl, inv_finishV hs vd (fitsIn_subrange _ (hv va))⟩
  | vcat vd va vb => exact ⟨_, rfl, inv_finishV hs vd (fitsIn_concat _ _ _)⟩
  | vpadl vd va length fill => exact ⟨_, rfl, inv_finishV hs vd (fitsIn_padLeft _ _ _ _)⟩
  | vshr vd va n =>
    exact ⟨_, rfl, inv_finishV hs vd (fitsIn_ok _ (by rw [length_shrBytes]; exact hv va))⟩
  | genipek vd va vb => exact ⟨_, rfl, inv_finishV hs vd ((fitsIn_generateIpek _ _ _).mono h16)⟩
  | derive vd va vb => exact ⟨_, rfl, inv_finishV hs vd ((fitsIn_deriveKey _ _ _).mono h16)⟩
  | bpekh vd va vb =>
    exact ⟨_, rfl, inv_finishV hs vd ((fitsIn_basePekHalf _ _ _ _).mono (by decide))⟩
  | bpek vd va vb => exact ⟨_, rfl, inv_finishV hs vd ((fitsIn_basePek _ _ _ _).mono h16)⟩
  | pekv vd va => exact ⟨_, rfl, inv_finishV hs vd ((fitsIn_pekWithVariant _ _).mono h16)⟩
  | peknv vd va => exact ⟨_, rfl, inv_finishV hs vd ((fitsIn_pekNoVariant _ _).mono h16)⟩
  | encd va vb => exact ⟨_, rfl, inv_finishP hs (fitsIn_encryptData _ _ _ hp)⟩
  | decd va vb => exact ⟨_, rfl, inv_finishP hs (fitsIn_decryptData _ _ _ hp)⟩
  | dectrk va vb => exact ⟨_, rfl, inv_finishP hs (fitsIn_decryptTrack _ _ _ hp)⟩

/-- Every command word, legal or not, keeps the invariant. -/
theorem execute_keeps_inv (w : Word) {s : State} (hs : s.Inv) :
    ∃ t, execute w s = .next t ∧ t.Inv := by
  unfold execute
  split
  · next i _ => exact exec_keeps_inv i hs
  · obtain ⟨hv, hp, -, hsticky, -, -⟩ := hs
    exact ⟨_, rfl, inv_abort .illegalCommand hv hp hsticky⟩

/-! The invariant at the other inputs (20_memory.md R53, R56, 70_reset_and_hazards.md R261) -/

theorem writeStore_keeps_inv (w : Word) (tgt : Target) {s : State} (hs : s.Inv) :
    (writeStore w tgt s).Inv := by
  obtain ⟨s', hs', hw⟩ | ⟨-, hw⟩ := writeStore_cases w tgt s
  · rw [hw]
    obtain ⟨hv, hp, hstatus⟩ := hs
    obtain ⟨i, b, rfl, hb⟩ | ⟨b, rfl, hb⟩ := storeTarget_cases hs'
    · have hlen : b.len ≤ vcap := hb.elim id fun h => h ▸ hv i
      exact ⟨vreg_setVreg_all (P := fun b => b.len ≤ vcap) hv hlen, hp, hstatus⟩
    · exact ⟨hv, hb.elim id fun h => h ▸ hp, hstatus⟩
  · rw [hw]
    exact hs

/-- Settles O56: after reset every buffer is empty and every register zero. -/
theorem invariantMetByReset : Obligations.InvariantMetByReset :=
  ⟨fun i => by simp, Nat.zero_le pcap, Nat.zero_le 8, BitVec.zero_and, fun h => absurd rfl h, rfl⟩

/-- Every input keeps the invariant. -/
theorem perform_keeps_inv (a : HostInput) {s : State} (hs : s.Inv) :
    ∃ t, perform a s = .next t ∧ t.Inv := by
  obtain ⟨w, ha⟩ | ⟨w, tgt, ha⟩ | ⟨b, ha⟩ | ⟨-, ha⟩ := perform_cases a s <;> rw [ha]
  · exact execute_keeps_inv w (s := { s with cmd := w, bus := .done }) hs
  · exact ⟨_, rfl, writeStore_keeps_inv w tgt hs⟩
  · exact ⟨_, rfl, hs⟩
  · exact ⟨_, rfl, invariantMetByReset⟩

/-- Settles O55, by what the oldest pending input does: every kind of input keeps the invariant. -/
theorem invariantKeptByEveryStep : Obligations.InvariantKeptByEveryStep := by
  intro s t hs h
  cases hp : s.pending with
  | nil =>
    rw [step_idle s hp] at h
    cases h
    exact hs
  | cons a rest =>
    obtain ⟨t', ht', hinv⟩ := perform_keeps_inv a (s := { s with pending := rest }) hs
    rw [step_of_pending hp, ht'] at h
    cases h
    exact hinv

end Sys2Proof.Machine
end

section
/-! Proofs about 10_state.md, fourth part: results depend on values only (R33, R100). Two runs of one
command, from states that agree on values, counters and the environment's answers, are followed side
by side. Inside DERIVE the loop also reads working registers, so there the two runs must agree on
the ones it reads before it writes them. -/

namespace Sys2Proof.Machine

/-! Two runs of an engine function side by side -/

/-- Two results agree: the same value or the same error, with the same counters and port answers;
where they completed, the working registers are related by `Q`. -/
def Res.Agree {α : Type} (Q : Work → Work → Prop) : Res α → Res α → Prop
  | .ok a e, .ok b e' => a = b ∧ e.clear = e'.clear ∧ Q e.work e'.work
  | .raise err e, .raise err' e' => err = err' ∧ e.clear = e'.clear
  | .ok _ _, .raise _ _ => False
  | .raise _ _, .ok _ _ => False

/-- The relation that holds of all working registers: what they hold does not matter. -/
def AnyWork (_ _ : Work) : Prop := True

/-- The working registers the derivation loop reads before it writes them agree. -/
def SameLoaded (w w' : Work) : Prop :=
  w.r3 = w'.r3 ∧ w.r8 = w'.r8 ∧ w.sr = w'.sr ∧ w.curkey = w'.curkey

/-- As `SameLoaded`, and `REG2` has been written as well. -/
def SameWithReg2 (w w' : Work) : Prop := SameLoaded w w' ∧ w.reg2 = w'.reg2

/-- As `SameWithReg2`, and `REG1` has been written as well. -/
def SameWithRegs (w w' : Work) : Prop := SameWithReg2 w w' ∧ w.reg1 = w'.reg1

section Agree

variable {α β : Type} {Q Q' : Work → Work → Prop} {e e' : Engine}

/-- Engines agree outside the working registers exactly when counters and port answers agree. -/
theorem clear_eq_clear_iff :
    e.clear = e'.clear ↔ e.sdescnt = e'.sdescnt ∧ e.tdescnt = e'.tdescnt ∧ e.port = e'.port := by
  simp [Engine.clear]

theorem agree_ok (a : α) (hc : e.clear = e'.clear) (hw : Q e.work e'.work) :
    (Res.ok a e).Agree Q (.ok a e') := ⟨rfl, hc, hw⟩

theorem agree_raise (err : Err) (hc : e.clear = e'.clear) :
    (Res.raise err e : Res α).Agree Q (.raise err e') := ⟨rfl, hc⟩

/-- Sequences agree if their first parts do and, from there, their second parts. -/
theorem Res.Agree.andThen {x y : Res α} {f g : α → Engine → Res β} (h : x.Agree Q y)
    (hfg : ∀ a e e', e.clear = e'.clear → Q e.work e'.work → (f a e).Agree Q' (g a e')) :
    (x.andThen f).Agree Q' (y.andThen g) := by
  cases x with
  | ok a e =>
    cases y with
    | ok b e' =>
      obtain ⟨rfl, hc, hw⟩ := h
      exact hfg a e e' hc hw
    | raise err' e' => exact h.elim
  | raise err e =>
    cases y with
    | ok b e' => exact h.elim
    | raise err' e' => exact h

theorem Res.Agree.mask {x y : Res α} (h : x.Agree Q y) : x.mask.Agree Q y.mask := by
  cases x with
  | ok a e =>
    cases y with
    | ok b e' => exact h
    | raise err' e' => exact h.elim
  | raise err e =>
    cases y with
    | ok b e' => exact h.elim
    | raise err' e' => exact ⟨rfl, h.2⟩

/-- A test that raises, before a computation that agrees. -/
theorem agree_guard {p : Prop} [Decidable p] (err : Err) {x y : Res α} (hc : e.clear = e'.clear)
    (h : x.Agree Q y) :
    (if p then Res.raise err e else x).Agree Q (if p then Res.raise err e' else y) := by
  split
  · exact agree_raise err hc
  · exact h

/-! The byte-vector unit leaves the engine as it is (40_bytevector_alu.md R100) -/

theorem agree_elementwise (f : ByteVec → ByteVec → ByteVec) (a b : ByteVec)
    (hc : e.clear = e'.clear) : (elementwise f a b e).Agree AnyWork (elementwise f a b e') :=
  agree_guard _ hc (agree_ok _ hc trivial)

theorem agree_subrange (first last : Nat) (a : ByteVec) (hc : e.clear = e'.clear) :
    (subrange first last a e).Agree AnyWork (subrange first last a e') :=
  agree_guard _ hc (agree_ok _ hc trivial)

theorem agree_concat (a b : ByteVec) (hc : e.clear = e'.clear) :
    (concat a b e).Agree AnyWork (concat a b e') :=
  agree_guard _ hc (agree_ok _ hc trivial)

theorem agree_padLeft (length : Nat) (fill : FillByte) (a : ByteVec) (hc : e.clear = e'.clear) :
    (padLeft length fill a e).Agree AnyWork (padLeft length fill a e') :=
  agree_guard _ hc (agree_guard _ hc (agree_ok _ hc trivial))

theorem agree_shiftRight (n : Nat) (a : ByteVec) (hc : e.clear = e'.clear) :
    (shiftRight n a e).Agree AnyWork (shiftRight n a e') := agree_ok _ hc trivial

/-! The cipher port and the adapter neither read nor write a working register -/

theorem agree_portRespond (c : Config) (r : ByteVec) (hc : e.clear = e'.clear)
    (hw : Q e.work e'.work) : (portRespond c r e).Agree Q (portRespond c r e') := by
  obtain ⟨hs, ht, hp⟩ := clear_eq_clear_iff.mp hc
  unfold portRespond
  rw [← hp]
  split
  · split
    · exact agree_ok r hc hw
    · exact agree_ok r (clear_eq_clear_iff.mpr ⟨hs, ht, rfl⟩) hw
    · exact agree_raise _ (clear_eq_clear_iff.mpr ⟨hs, ht, rfl⟩)
  · exact agree_ok r hc hw

theorem clear_countDes (hc : e.clear = e'.clear) : (countDes e).clear = (countDes e').clear := by
  obtain ⟨hs, ht, hp⟩ := clear_eq_clear_iff.mp hc
  exact clear_eq_clear_iff.mpr ⟨congrArg (· + 1) hs, ht, hp⟩

theorem clear_countTdes (hc : e.clear = e'.clear) : (countTdes e).clear = (countTdes e').clear := by
  obtain ⟨hs, ht, hp⟩ := clear_eq_clear_iff.mp hc
  exact clear_eq_clear_iff.mpr ⟨hs, congrArg (· + 1) ht, hp⟩

theorem agree_tripleDesEncrypt (c : Config) (data key : ByteVec) (hc : e.clear = e'.clear)
    (hw : Q e.work e'.work) :
    (tripleDesEncrypt c data key e).Agree Q (tripleDesEncrypt c data key e') :=
  agree_guard _ hc (agree_guard _ hc (agree_portRespond c _ (clear_countTdes hc) hw))

theorem agree_tripleDesDecrypt (c : Config) (data key : ByteVec) (hc : e.clear = e'.clear)
    (hw : Q e.work e'.work) :
    (tripleDesDecrypt c data key e).Agree Q (tripleDesDecrypt c data key e') :=
  agree_guard _ hc (agree_guard _ hc (agree_portRespond c _ (clear_countTdes hc) hw))

theorem agree_singleDesEncrypt (c : Config) (block key : ByteVec) (hc : e.clear = e'.clear)
    (hw : Q e.work e'.work) :
    (singleDesEncrypt c block key e).Agree Q (singleDesEncrypt c block key e') :=
  agree_guard _ hc (agree_guard _ hc (agree_portRespond c _ (clear_countDes hc) hw))

/-! Keys (42_key_derivation.md R143, R146, 43_key_construction.md R162 to R165) -/

theorem agree_generateIpek (c : Config) (ksn bdk : ByteVec) (hc : e.clear = e'.clear)
    (hw : Q e.work e'.work) :
    (generateIpek c ksn bdk e).Agree Q (generateIpek c ksn bdk e') :=
  agree_guard _ hc <| (agree_tripleDesEncrypt c _ _ hc hw).andThen fun _ _ _ hc1 hw1 =>
    (agree_tripleDesEncrypt c _ _ hc1 hw1).andThen fun _ _ _ hc2 hw2 => agree_ok _ hc2 hw2

/-- The update of `REG2` reads `R8` and `CURKEY` and writes `REG2`. -/
theorem agree_updateReg2 (c : Config) (hc : e.clear = e'.clear) (hw : SameLoaded e.work e'.work) :
    (updateReg2 c e).Agree SameWithReg2 (updateReg2 c e') := by
  obtain ⟨hr3, hr8, hsr, hkey⟩ := hw
  unfold updateReg2
  simp only [hr8, hkey]
  refine Res.Agree.andThen (Q := SameLoaded) (agree_singleDesEncrypt c _ _ ?_ ?_)
    fun enc _ _ hc2 hw2 => agree_ok () hc2 ⟨hw2, rfl⟩
  · exact hc
  · exact ⟨hr3, rfl, hsr, rfl⟩

/-- The update of `REG1` reads `R8` and `CURKEY`, writes `REG1` and keeps `REG2`. -/
theorem agree_updateReg1 (c : Config) (hc : e.clear = e'.clear) (hw : SameWithReg2 e.work e'.work) :
    (updateReg1 c e).Agree SameWithRegs (updateReg1 c e') := by
  obtain ⟨⟨hr3, hr8, hsr, hkey⟩, hreg2⟩ := hw
  unfold updateReg1
  simp only [hr8, hkey]
  refine Res.Agree.andThen (Q := SameWithReg2) (agree_singleDesEncrypt c _ _ ?_ ?_)
    fun enc _ _ hc2 hw2 => agree_ok () hc2 ⟨hw2, rfl⟩
  · exact hc
  · exact ⟨⟨hr3, rfl, hsr, rfl⟩, hreg2⟩

/-! The moves between working registers keep what the loop reads in agreement. -/

theorem sameLoaded_orMask (hw : SameLoaded e.work e'.work) :
    SameLoaded (orMask e).work (orMask e').work := by
  obtain ⟨hr3, hr8, hsr, hkey⟩ := hw
  exact ⟨hr3, congrArg₂ orBytes hr8 hsr, hsr, hkey⟩

theorem sameWithReg2_varyKey (hw : SameWithReg2 e.work e'.work) :
    SameWithReg2 (varyKey e).work (varyKey e').work := by
  obtain ⟨⟨hr3, hr8, hsr, hkey⟩, hreg2⟩ := hw
  exact ⟨⟨hr3, hr8, hsr, congrArg (xorBytes · variantMask) hkey⟩, hreg2⟩

theorem sameLoaded_joinKey (hw : SameWithRegs e.work e'.work) :
    SameLoaded (joinKey e).work (joinKey e').work := by
  obtain ⟨⟨⟨hr3, hr8, hsr, -⟩, hreg2⟩, hreg1⟩ := hw
  exact ⟨hr3, hr8, hsr, congrArg₂ (· ++ ·) hreg1 hreg2⟩

theorem sameLoaded_shiftMask (hw : SameLoaded e.work e'.work) :
    SameLoaded (shiftMask e).work (shiftMask e').work := by
  obtain ⟨hr3, hr8, hsr, hkey⟩ := hw
  exact ⟨hr3, hr8, congrArg (shrBytes · 1) hsr, hkey⟩

theorem agree_keyUpdate (c : Config) (hc : e.clear = e'.clear) (hw : SameLoaded e.work e'.work) :
    (keyUpdate c e).Agree SameLoaded (keyUpdate c e') :=
  (agree_updateReg2 c (e := orMask e) (e' := orMask e') hc (sameLoaded_orMask hw)).andThen
    fun _ e1 e1' hc1 hw1 =>
  (agree_updateReg1 c (e := varyKey e1) (e' := varyKey e1') hc1 (sameWithReg2_varyKey hw1)).andThen
    fun _ _ _ hc2 hw2 => agree_ok () hc2 (sameLoaded_joinKey hw2)

theorem agree_derivePass (c : Config) (hc : e.clear = e'.clear) (hw : SameLoaded e.work e'.work) :
    (derivePass c e).Agree SameLoaded (derivePass c e') := by
  have ⟨hr3, _, hsr, _⟩ := hw
  unfold derivePass
  rw [hr3, hsr]
  split
  · exact agree_ok () hc (sameLoaded_shiftMask hw)
  · exact (agree_keyUpdate c hc hw).andThen fun _ _ _ hc1 hw1 =>
      agree_ok () hc1 (sameLoaded_shiftMask hw1)

theorem agree_deriveLoop (c : Config) (n : Nat) (hc : e.clear = e'.clear)
    (hw : SameLoaded e.work e'.work) :
    (deriveLoop c n e).Agree SameLoaded (deriveLoop c n e') := by
  induction n generalizing e e' with
  | zero => exact agree_ok () hc hw
  | succ n ih =>
    have ⟨_, _, hsr, _⟩ := hw
    unfold deriveLoop
    rw [hsr]
    split
    · exact agree_ok () hc hw
    · exact (agree_derivePass c hc hw).andThen fun _ _ _ hc1 hw1 => ih hc1 hw1

/-- `R3` and `R8` agree: what the derivation has loaded when it asks for the IPEK. -/
def SameCounter (w w' : Work) : Prop := w.r3 = w'.r3 ∧ w.r8 = w'.r8

/-- DERIVE loads every working register the loop reads, so what they held before is not seen. -/
theorem agree_deriveKey (c : Config) (ksn bdk : ByteVec) (hc : e.clear = e'.clear) :
    (deriveKey c ksn bdk e).Agree AnyWork (deriveKey c ksn bdk e') := by
  refine agree_guard _ hc ?_
  have hipek := agree_generateIpek (Q := SameCounter) (e := loadCounter ksn e)
    (e' := loadCounter ksn e') c ksn bdk hc ⟨rfl, rfl⟩
  refine hipek.andThen fun ipek e1 e1' hc1 ⟨hr3, hr8⟩ => ?_
  refine Res.Agree.andThen (Q := SameLoaded) (agree_deriveLoop c 64 ?_ ?_)
    fun _ _ _ hc2 ⟨_, _, _, hkey⟩ => ?_
  · exact hc1
  · exact ⟨hr3, hr8, rfl, rfl⟩
  · exact ⟨hkey, hc2, trivial⟩

theorem agree_basePekHalf (c : Config) (key ksn : ByteVec) (hc : e.clear = e'.clear) :
    (basePekHalf c key ksn e).Agree AnyWork (basePekHalf c key ksn e') :=
  agree_guard _ hc <| agree_guard _ hc <|
    (agree_singleDesEncrypt (Q := AnyWork) c _ _ hc trivial).andThen fun _ _ _ hc1 _ =>
      agree_ok _ hc1 trivial

theorem agree_basePek (c : Config) (key ksn : ByteVec) (hc : e.clear = e'.clear) :
    (basePek c key ksn e).Agree AnyWork (basePek c key ksn e') :=
  (agree_basePekHalf c _ _ hc).andThen fun _ _ _ hc1 _ =>
    (agree_basePekHalf c _ _ hc1).andThen fun _ _ _ hc2 _ => agree_ok _ hc2 trivial

theorem agree_pekWithVariant (c : Config) (key : ByteVec) (hc : e.clear = e'.clear) :
    (pekWithVariant c key e).Agree AnyWork (pekWithVariant c key e') :=
  agree_guard _ hc <| (agree_tripleDesEncrypt (Q := AnyWork) c _ _ hc trivial).andThen
    fun _ _ _ hc1 _ => (agree_tripleDesEncrypt (Q := AnyWork) c _ _ hc1 trivial).andThen
      fun _ _ _ hc2 _ => agree_ok _ hc2 trivial

theorem agree_pekNoVariant (key : ByteVec) (hc : e.clear = e'.clear) :
    (pekNoVariant key e).Agree AnyWork (pekNoVariant key e') :=
  agree_guard _ hc (agree_ok _ hc trivial)

/-! The workflow (44_workflow.md R181 to R184) -/

theorem agree_workflowDataKey (c : Config) (ksn ipek : ByteVec) (hc : e.clear = e'.clear) :
    (workflowDataKey c ksn ipek e).Agree AnyWork (workflowDataKey c ksn ipek e') :=
  (agree_basePek c _ _ hc).andThen fun _ _ _ hc1 _ => agree_pekWithVariant c _ hc1

theorem agree_encryptData (c : Config) (ksn ipek p : ByteVec) (hc : e.clear = e'.clear) :
    (encryptData c ksn ipek p e).Agree AnyWork (encryptData c ksn ipek p e') :=
  (agree_workflowDataKey c _ _ hc).andThen fun _ _ _ hc1 hw1 => agree_tripleDesEncrypt c _ _ hc1 hw1

theorem agree_decryptData (c : Config) (ksn ipek p : ByteVec) (hc : e.clear = e'.clear) :
    (decryptData c ksn ipek p e).Agree AnyWork (decryptData c ksn ipek p e') :=
  (agree_workflowDataKey c _ _ hc).andThen fun _ _ _ hc1 hw1 => agree_tripleDesDecrypt c _ _ hc1 hw1

theorem agree_decryptTrack (c : Config) (ksn bdk p : ByteVec) (hc : e.clear = e'.clear) :
    (decryptTrack c ksn bdk p e).Agree AnyWork (decryptTrack c ksn bdk p e') :=
  Res.Agree.mask <| (agree_deriveKey c _ _ hc).andThen fun _ _ _ hc1 _ =>
    (agree_pekNoVariant _ hc1).andThen fun _ _ _ hc2 hw2 => agree_tripleDesDecrypt c _ _ hc2 hw2

end Agree

/-! Two runs of a command side by side -/

/-- Two states have the same values in every vector register and in the payload buffer. -/
def SameValues (s u : State) : Prop := (∀ r : VIdx, s.vval r = u.vval r) ∧ s.pval = u.pval

/-- What `ResultsDependOnValuesOnly` compares after the command. -/
def SameResults (t x : State) : Prop :=
  (∀ r : VIdx, t.vval r = x.vval r) ∧ t.pval = x.pval ∧ t.errcode = x.errcode ∧ t.eng = x.eng

/-- The values stay in agreement when one register is given the same buffer in both states. -/
theorem vval_setVreg_congr {s u : State} (h : ∀ r : VIdx, s.vval r = u.vval r) (i : VIdx)
    (b : Buf vcap) (r : VIdx) : (s.setVreg i b).vval r = (u.setVreg i b).vval r := by
  unfold State.vval
  by_cases hir : i = r
  · rw [hir, vreg_setVreg_self, vreg_setVreg_self]
  · rw [vreg_setVreg_of_ne s b hir, vreg_setVreg_of_ne u b hir]
    exact h r

theorem sameResults_finishV {s u : State} (h : SameValues s u) (vd : VIdx) {x y : Res ByteVec}
    (hxy : x.Agree AnyWork y) : SameResults (finishV vd s x) (finishV vd u y) := by
  obtain ⟨hv, hp⟩ := h
  cases x with
  | ok a e =>
    cases y with
    | ok b e' =>
      obtain ⟨rfl, hc, -⟩ := hxy
      exact ⟨vval_setVreg_congr hv vd _, hp, rfl, hc⟩
    | raise err' e' => exact hxy.elim
  | raise err e =>
    cases y with
    | ok b e' => exact hxy.elim
    | raise err' e' =>
      obtain ⟨rfl, hc⟩ := hxy
      exact ⟨hv, hp, rfl, hc⟩

theorem sameResults_finishP {s u : State} (h : SameValues s u) {x y : Res ByteVec}
    (hxy : x.Agree AnyWork y) : SameResults (finishP s x) (finishP u y) := by
  obtain ⟨hv, hp⟩ := h
  cases x with
  | ok a e =>
    cases y with
    | ok b e' =>
      obtain ⟨rfl, hc, -⟩ := hxy
      exact ⟨hv, rfl, rfl, hc⟩
    | raise err' e' => exact hxy.elim
  | raise err e =>
    cases y with
    | ok b e' => exact hxy.elim
    | raise err' e' =>
      obtain ⟨rfl, hc⟩ := hxy
      exact ⟨hv, hp, rfl, hc⟩

section Forms

variable {s u : State} (h : SameValues s u) (hc : s.eng.clear = u.eng.clear)

include h

theorem sameResults_formVVV (vd va vb : VIdx) {f : ByteVec → ByteVec → Engine → Res ByteVec}
    (hf : ∀ a b, (f a b s.eng).Agree AnyWork (f a b u.eng)) :
    SameResults (formVVV f vd va vb s) (formVVV f vd va vb u) := by
  refine sameResults_finishV h vd ?_
  rw [h.1 va, h.1 vb]
  exact hf _ _

theorem sameResults_formVV (vd va : VIdx) {f : ByteVec → Engine → Res ByteVec}
    (hf : ∀ a, (f a s.eng).Agree AnyWork (f a u.eng)) :
    SameResults (formVV f vd va s) (formVV f vd va u) := by
  refine sameResults_finishV h vd ?_
  rw [h.1 va]
  exact hf _

theorem sameResults_formSVV (va vb : VIdx) {f : ByteVec → ByteVec → ByteVec → Engine → Res ByteVec}
    (hf : ∀ a b p, (f a b p s.eng).Agree AnyWork (f a b p u.eng)) :
    SameResults (formSVV f va vb s) (formSVV f va vb u) := by
  refine sameResults_finishP h ?_
  rw [h.1 va, h.1 vb, h.2]
  exact hf _ _ _

include hc

/-- Every command, from states that agree on values, counters and port answers. -/
theorem exec_sameResults (i : Instr) :
    ∃ t x, exec i s = .next t ∧ exec i u = .next x ∧ SameResults t x := by
  cases i with
  | zeroize => exact ⟨_, _, rfl, rfl, fun _ => rfl, rfl, rfl, hc⟩
  | clrcnt =>
    obtain ⟨-, -, hport⟩ := clear_eq_clear_iff.mp hc
    exact ⟨_, _, rfl, rfl, h.1, h.2, rfl, clear_eq_clear_iff.mpr ⟨rfl, rfl, hport⟩⟩
  | vand => exact ⟨_, _, rfl, rfl, sameResults_formVVV h _ _ _ fun _ _ => agree_elementwise _ _ _ hc⟩
  | vor => exact ⟨_, _, rfl, rfl, sameResults_formVVV h _ _ _ fun _ _ => agree_elementwise _ _ _ hc⟩
  | vxor => exact ⟨_, _, rfl, rfl, sameResults_formVVV h _ _ _ fun _ _ => agree_elementwise _ _ _ hc⟩
  | vsub => exact ⟨_, _, rfl, rfl, sameResults_formVV h _ _ fun _ => agree_subrange _ _ _ hc⟩
  | vcat => exact ⟨_, _, rfl, rfl, sameResults_formVVV h _ _ _ fun _ _ => agree_concat _ _ hc⟩
  | vpadl => exact ⟨_, _, rfl, rfl, sameResults_formVV h _ _ fun _ => agree_padLeft _ _ _ hc⟩
  | vshr => exact ⟨_, _, rfl, rfl, sameResults_formVV h _ _ fun _ => agree_shiftRight _ _ hc⟩
  | genipek =>
    exact ⟨_, _, rfl, rfl, sameResults_formVVV h _ _ _ fun _ _ => agree_generateIpek _ _ _ hc trivial⟩
  | derive =>
    exact ⟨_, _, rfl, rfl, sameResults_formVVV h _ _ _ fun _ _ => agree_deriveKey _ _ _ hc⟩
  | bpekh =>
    exact ⟨_, _, rfl, rfl, sameResults_formVVV h _ _ _ fun _ _ => agree_basePekHalf _ _ _ hc⟩
  | bpek => exact ⟨_, _, rfl, rfl, sameResults_formVVV h _ _ _ fun _ _ => agree_basePek _ _ _ hc⟩
  | pekv => exact ⟨_, _, rfl, rfl, sameResults_formVV h _ _ fun _ => agree_pekWithVariant _ _ hc⟩
  | peknv => exact ⟨_, _, rfl, rfl, sameResults_formVV h _ _ fun _ => agree_pekNoVariant _ hc⟩
  | encd =>
    exact ⟨_, _, rfl, rfl, sameResults_formSVV h _ _ fun _ _ _ => agree_encryptData _ _ _ _ hc⟩
  | decd =>
    exact ⟨_, _, rfl, rfl, sameResults_formSVV h _ _ fun _ _ _ => agree_decryptData _ _ _ _ hc⟩
  | dectrk =>
    exact ⟨_, _, rfl, rfl, sameResults_formSVV h _ _ fun _ _ _ => agree_decryptTrack _ _ _ _ hc⟩

end Forms

/-- Settles O22: the two runs of the command are followed side by side by `exec_sameResults`. -/
theorem resultsDependOnValuesOnly : Obligations.ResultsDependOnValuesOnly := by
  intro i s u t x hv hp hc ht hx
  obtain ⟨t', x', ht', hx', hsame⟩ := exec_sameResults (s := s) (u := u) ⟨hv, hp⟩ hc i
  cases ht.symm.trans ht'
  cases hx.symm.trans hx'
  exact hsame

end Sys2Proof.Machine
end

section
/-! Proofs about 20_memory.md: the map of the register window (R51, R52, R54), the refused accesses
(R56), and the read that follows a write (R59). -/

namespace Sys2Proof.Machine

/-! The map, read from the locations to the addresses (R51) -/

/-- The address of a location of the window (R51). -/
def Target.addr : Target → Nat
  | .cmd => 0x000
  | .errcode => 0x004
  | .esticky => 0x008
  | .sdescnt => 0x00C
  | .tdescnt => 0x010
  | .plen => 0x014
  | .id => 0x018
  | .vlen i => 0x100 + 0x40 * i.val
  | .vdata i k => 0x120 + 0x40 * i.val + 4 * k
  | .pdata k => 0x800 + 4 * k

/-- The data words the window holds: eight of each vector register, `PCAP / 4` of the payload. -/
def Target.InWindow : Target → Prop
  | .vdata _ k => k < 8
  | .pdata k => k < pcap / 4
  | .cmd | .errcode | .esticky | .sdescnt | .tdescnt | .plen | .id | .vlen _ => True

/-- What the map may answer for an address: nothing where it is unaligned or reserved, and otherwise
the location whose address it is (R51, R55). -/
inductive Locates (addr : BitVec 12) : Option Target → Prop
  | unnamed (h : addr.toNat % 4 ≠ 0 ∨ Reserved addr) : Locates addr none
  | named (tgt : Target) (hin : tgt.InWindow) (ha : addr.toNat = tgt.addr) : Locates addr (some tgt)

/-- The block of a vector register holds its length, a reserved gap, and its data words. -/
theorem locates_locateVreg {addr : BitVec 12} {i : VIdx} {o : Nat}
    (ha : addr.toNat = 0x100 + 0x40 * i.val + o) (h4 : o % 4 = 0) (ho : o < 0x40) :
    Locates addr (locateVreg i o) := by
  have hi : i.val < 16 := i.isLt
  unfold locateVreg
  split
  · exact .named _ trivial (by rw [Target.addr]; omega)
  · split
    · exact .named _ (by rw [Target.InWindow]; omega) (by rw [Target.addr]; omega)
    · exact .unnamed (.inr (by unfold Reserved; omega))

/-- The map of the model is the map of the spec, branch by branch. -/
theorem locates_locate (addr : BitVec 12) : Locates addr (locate addr) := by
  unfold locate
  dsimp only
  split
  · next h4 => exact .unnamed (.inl h4)
  iterate 7
    split
    · next ha => exact .named _ trivial ha
  split
  · exact locates_locateVreg (by simp only; omega) (by omega) (by omega)
  · have hcap : pcap = 256 := rfl
    split
    · exact .named _ (by rw [Target.InWindow]; omega) (by rw [Target.addr]; omega)
    · exact .unnamed (.inr (by unfold Reserved; omega))

/-- The address of a location is aligned and not reserved. -/
theorem Target.InWindow.not_reserved {tgt : Target} (hin : tgt.InWindow) {addr : BitVec 12}
    (ha : addr.toNat = tgt.addr) : ¬ (addr.toNat % 4 ≠ 0 ∨ Reserved addr) := by
  unfold Reserved
  cases tgt with
  | vlen i =>
    have hi : i.val < 16 := i.isLt
    simp only [Target.addr] at ha
    omega
  | vdata i k =>
    have hi : i.val < 16 := i.isLt
    simp only [Target.addr, Target.InWindow] at ha hin
    omega
  | pdata k =>
    simp only [Target.addr, Target.InWindow] at ha hin
    omega
  | cmd | errcode | esticky | sdescnt | tdescnt | plen | id =>
    simp only [Target.addr] at ha
    omega

/-- The location an access names is in the window, at the access's address. -/
theorem target_of_accessTarget {addr : BitVec 12} {width : Nat} {tgt : Target}
    (h : accessTarget addr width = some tgt) :
    width = 4 ∧ tgt.InWindow ∧ addr.toNat = tgt.addr := by
  obtain ⟨hw, hloc⟩ := Option.ite_none_right_eq_some.mp h
  have hspec := locates_locate addr
  rw [hloc] at hspec
  cases hspec with
  | named _ hin ha => exact ⟨hw, hin, ha⟩

/-- An access names no location exactly when its width, its alignment or its address is refused. -/
theorem accessTarget_eq_none_iff (addr : BitVec 12) (width : Nat) :
    accessTarget addr width = none ↔ width ≠ 4 ∨ addr.toNat % 4 ≠ 0 ∨ Reserved addr := by
  by_cases hw : width = 4
  · rw [accessTarget, if_pos hw]
    have hspec := locates_locate addr
    generalize locate addr = x at hspec ⊢
    cases hspec with
    | unnamed h => exact iff_of_true rfl (.inr h)
    | named tgt hin ha =>
      exact iff_of_false nofun (not_or.mpr ⟨not_not.mpr hw, hin.not_reserved ha⟩)
  · simp [accessTarget, hw]

/-! The packing of a data word (R54) -/

/-- A data word reads as its big-endian number. -/
theorem toNat_word {cap : Nat} (b : Buf cap) (k : Nat) : (b.word k).toNat = wordNumber b k := by
  have h0 := (b.byte (4 * k)).isLt
  have h1 := (b.byte (4 * k + 1)).isLt
  have h2 := (b.byte (4 * k + 2)).isLt
  have h3 := (b.byte (4 * k + 3)).isLt
  rw [Buf.word, packWord, wordNumber, BitVec.toNat_ofNat]
  omega

/-- Packing the bytes of a word gives the word. -/
theorem packWord_wordByte (w : Word) :
    packWord (wordByte w 0) (wordByte w 1) (wordByte w 2) (wordByte w 3) = w := by
  apply BitVec.eq_of_toNat_eq
  have hw := w.isLt
  simp only [packWord, wordByte_eq, BitVec.toNat_ofNat, Nat.reduceLT, Nat.reduceSub, Nat.reducePow,
    Nat.pow_zero]
  omega

/-- A data word reads back as it was written. -/
theorem word_setWord {cap : Nat} (b : Buf cap) {k : Nat} (w : Word) (hk : 4 * k + 3 < cap) :
    (b.setWord k w).word k = w := by
  have h (j : Nat) (hj : j < 4) : (b.setWord k w).byte (4 * k + j) = wordByte w j := by
    rw [(wordReplaced_setWord b k w).2 _ (by omega), if_pos (by omega), wordByte_eq w hj,
      show (4 * k + j) % 4 = j by omega]
  rw [Buf.word, ← Nat.add_zero (4 * k), h 0 (by omega)]
  simp only [Nat.add_zero, h, Nat.reduceLT]
  exact packWord_wordByte w

/-! Reads (R52) -/

/-- Which inputs are to come and what the bus answered does not show in a read. -/
theorem readTarget_withIO (s : State) (ps : List HostInput) (b : BusAnswer) (tgt : Target) :
    readTarget { s with pending := ps, bus := b } tgt = readTarget s tgt := by
  cases tgt <;> rfl

/-- The step at a read records the answer (R52). -/
theorem step_read {s : State} {addr : BitVec 12} {width : Nat} {rest : List HostInput}
    (hp : s.pending = .read addr width :: rest) :
    step s = .next { s with pending := rest, bus := readAnswer (memRead s addr width) } := by
  rw [step_of_pending hp, perform, memRead, memRead]
  simp only [funext (readTarget_withIO s rest s.bus)]

/-- Settles O5, from the step at a read. -/
theorem readChangesNoState : Obligations.ReadChangesNoState :=
  fun _ _ _ _ hp => ⟨fun _ hw => by rw [step_read hp, hw, readAnswer],
    fun hn => by rw [step_read hp, hn, readAnswer]⟩

/-- Settles O4: each listed address names its location, and a data word is packed big-endian. -/
theorem windowReadsByTheMap : Obligations.WindowReadsByTheMap := by
  intro s
  have control {addr : BitVec 12} {tgt : Target} (h : accessTarget addr 4 = some tgt) :=
    memRead_of_target h s
  exact ⟨control accessTarget_cmd, control (tgt := .errcode) (by decide),
    control (tgt := .esticky) (by decide), control (tgt := .sdescnt) (by decide),
    control (tgt := .tdescnt) (by decide), control accessTarget_plen, control accessTarget_id,
    fun i => control (accessTarget_vlen i),
    fun i k hk => ⟨_, control (accessTarget_vdata i hk), toNat_word _ k⟩,
    fun k hk => ⟨_, control (accessTarget_pdata hk), toNat_word _ k⟩⟩

/-! Writes (R53, R56) -/

/-- A command word leaves `CMD`, the inputs to come and the bus's answer as they were (R26). -/
theorem execute_frame (w : Word) (s : State) :
    ∃ t, execute w s = .next t ∧ t.cmd = s.cmd ∧ t.pending = s.pending ∧ t.bus = s.bus := by
  unfold execute
  split
  · next i _ =>
    obtain ⟨t, ht, hends⟩ := exec_ends i s
    exact ⟨t, ht, by cases hends <;> exact ⟨rfl, rfl, rfl⟩⟩
  · exact ⟨_, rfl, rfl, rfl, rfl⟩

/-- An accepted store leaves the inputs to come as they were. -/
theorem storeTarget_pending {s s' : State} {w : Word} {tgt : Target}
    (h : storeTarget s w tgt = some s') : s'.pending = s.pending := by
  obtain ⟨i, b, rfl, -⟩ | ⟨b, rfl, -⟩ := storeTarget_cases h <;> rfl

/-- A location of the window reads as the word an accepted write stored there (R59). -/
theorem readTarget_storeTarget {s s' : State} {w : Word} {tgt : Target} (hin : tgt.InWindow)
    (h : storeTarget s w tgt = some s') : readTarget s' tgt = w := by
  cases tgt with
  | plen =>
    obtain ⟨-, h⟩ := Option.ite_none_left_eq_some.mp h
    cases h
    simp [readTarget]
  | vlen i =>
    obtain ⟨-, h⟩ := Option.ite_none_left_eq_some.mp h
    cases h
    simp [readTarget]
  | vdata i k =>
    have hk : k < 8 := hin
    have hcap : 4 * k + 3 < vcap := by unfold vcap; omega
    cases h
    rw [readTarget, vreg_setVreg_self, word_setWord _ w hcap]
  | pdata k =>
    have hk : k < pcap / 4 := hin
    have hcap : 4 * k + 3 < pcap := by omega
    cases h
    exact word_setWord _ w hcap
  | cmd | errcode | esticky | sdescnt | tdescnt | id => simp [storeTarget] at h

/-- A write is refused when it names no location, or one that does not store the word. -/
def WriteRefused (addr : BitVec 12) (width : Nat) (w : Word) (s : State) : Prop :=
  accessTarget addr width = none ∨
    ∃ tgt, accessTarget addr width = some tgt ∧ tgt ≠ .cmd ∧ storeTarget s w tgt = none

/-- What the step at a write can do: refuse it, run a command, or store to another location. -/
theorem step_write_cases {s : State} {addr : BitVec 12} {width : Nat} {w : Word}
    {rest : List HostInput} (hp : s.pending = .write addr width w :: rest) :
    (WriteRefused addr width w { s with pending := rest } ∧
      step s = .next { s with pending := rest, bus := .busError }) ∨
    (accessTarget addr width = some .cmd ∧
      ∃ t, step s = .next t ∧ t.cmd = w ∧ t.pending = rest ∧ t.bus = .done) ∨
    (∃ tgt s', accessTarget addr width = some tgt ∧ tgt ≠ .cmd ∧
      storeTarget { s with pending := rest } w tgt = some s' ∧
      step s = .next { s' with bus := .done }) := by
  cases ha : accessTarget addr width with
  | none => exact .inl ⟨.inl ha, by rw [step_of_pending hp, perform, memWrite, ha]; rfl⟩
  | some tgt =>
    by_cases hc : tgt = .cmd
    · subst hc
      obtain ⟨t, ht, hcmd, hpend, hbus⟩ :=
        execute_frame w { s with pending := rest, cmd := w, bus := .done }
      exact .inr (.inl ⟨rfl, t, by rw [step_of_pending hp, perform, memWrite, ha]; exact ht,
        hcmd, hpend, hbus⟩)
    · have hstep := step_write_of_target hp ha hc
      obtain ⟨s', hs', hw⟩ | ⟨hnone, hw⟩ := writeStore_cases w tgt { s with pending := rest }
      · exact .inr (.inr ⟨tgt, s', rfl, hc, hs', hstep.trans (congrArg _ hw)⟩)
      · exact .inl ⟨.inr ⟨tgt, ha, hc, hnone⟩, hstep.trans (congrArg _ hw)⟩

/-- Settles O8: an accepted write ran a command, which keeps `CMD`, or stored its word. -/
theorem readReturnsLatestWrite : Obligations.ReadReturnsLatestWrite := by
  intro s t addr w rest hp hstep hdone
  have hread (hpend : t.pending = .read addr 4 :: rest) (hmem : memRead t addr 4 = some w) :=
    (readChangesNoState t addr 4 rest hpend).1 w hmem
  obtain ⟨-, h⟩ | ⟨ha, t', h, hcmd, hpend, -⟩ | ⟨tgt, s', ha, -, hs', h⟩ := step_write_cases hp
  all_goals
    rw [hstep] at h
    cases h
  · exact absurd hdone nofun
  · exact hread hpend (by rw [memRead_of_target ha, readTarget, hcmd])
  · obtain ⟨-, hin, -⟩ := target_of_accessTarget ha
    refine hread (storeTarget_pending hs') ?_
    rw [memRead_of_target ha, readTarget_withIO s' s'.pending, readTarget_storeTarget hin hs']

/-! The causes of a bus error are complete (R56) -/

/-- A read is refused exactly when it names no location. -/
theorem refusedAccess_read_iff (addr : BitVec 12) (width : Nat) :
    RefusedAccess (.read addr width) ↔ accessTarget addr width = none :=
  (accessTarget_eq_none_iff addr width).symm

/-- The listed causes that concern a write alone: a read-only register, or a length above its
capacity (R56). -/
def StoreRefused (w : Word) : Target → Prop
  | .errcode | .esticky | .sdescnt | .tdescnt | .id => True
  | .plen => pcap < w.toNat
  | .vlen _ => vcap < w.toNat
  | .cmd | .vdata _ _ | .pdata _ => False

/-- They are the locations other than `CMD` that do not store the word. -/
theorem storeRefused_iff (s : State) (w : Word) (tgt : Target) :
    StoreRefused w tgt ↔ tgt ≠ .cmd ∧ storeTarget s w tgt = none := by
  cases tgt <;> simp [StoreRefused, storeTarget]

/-- At the address of a location, the causes of a write's refusal are those of its location. -/
theorem refusedAccess_write_iff_storeRefused {addr : BitVec 12} {w : Word} {tgt : Target}
    (hin : tgt.InWindow) (ha : addr.toNat = tgt.addr) :
    RefusedAccess (.write addr 4 w) ↔ StoreRefused w tgt := by
  rw [RefusedAccess, or_iff_right (not_not.mpr rfl), ← or_assoc,
    or_iff_right (hin.not_reserved ha)]
  cases tgt with
  | vlen i =>
    have hi : i.val < 16 := i.isLt
    simp only [Target.addr, StoreRefused] at ha ⊢
    omega
  | vdata i k =>
    have hi : i.val < 16 := i.isLt
    simp only [Target.addr, Target.InWindow, StoreRefused, iff_false] at ha hin ⊢
    omega
  | pdata k =>
    simp only [Target.addr, StoreRefused, iff_false] at ha ⊢
    omega
  | cmd | errcode | esticky | sdescnt | tdescnt | plen | id =>
    simp only [Target.addr, StoreRefused, iff_true, iff_false] at ha ⊢
    omega

/-- The listed causes of a write's refusal are exactly those by which the machine refuses it. -/
theorem refusedAccess_write_iff (addr : BitVec 12) (width : Nat) (w : Word) (s : State) :
    RefusedAccess (.write addr width w) ↔ WriteRefused addr width w s := by
  cases ha : accessTarget addr width with
  | none =>
    have hbad := (accessTarget_eq_none_iff addr width).mp ha
    exact iff_of_true (hbad.imp_right (Or.imp_right Or.inl)) (.inl ha)
  | some tgt =>
    obtain ⟨rfl, hin, haddr⟩ := target_of_accessTarget ha
    rw [refusedAccess_write_iff_storeRefused hin haddr, storeRefused_iff s]
    simp [WriteRefused, ha]

/-- Settles O6, by the kind of input: a read answers exactly where its address names a location, a
write is refused exactly by the listed causes, and the reset input is never refused. -/
theorem refusedAccessChangesNothing : Obligations.RefusedAccessChangesNothing := by
  intro s a rest hp
  cases a with
  | read addr width =>
    rw [refusedAccess_read_iff]
    refine ⟨fun hn => ?_, fun hs => ?_⟩
    · exact (readChangesNoState s addr width rest hp).2 (by rw [memRead, hn]; rfl)
    · obtain ⟨tgt, htgt⟩ := Option.ne_none_iff_exists'.mp hs
      exact ⟨_, (readChangesNoState s addr width rest hp).1 _ (memRead_of_target htgt s), nofun⟩
  | write addr width w =>
    rw [refusedAccess_write_iff addr width w { s with pending := rest }]
    obtain ⟨hr, h⟩ | ⟨ha, t, h, -, -, hbus⟩ | ⟨tgt, s', ha, -, hs', h⟩ := step_write_cases hp
    · exact ⟨fun _ => h, fun hn => absurd hr hn⟩
    · refine ⟨fun hr => ?_, fun _ => ⟨t, h, by rw [hbus]; exact nofun⟩⟩
      simp [WriteRefused, ha] at hr
    · refine ⟨fun hr => ?_, fun _ => ⟨_, h, nofun⟩⟩
      simp [WriteRefused, ha, hs'] at hr
  | reset => exact ⟨False.elim, fun _ => ⟨_, step_of_pending hp, nofun⟩⟩

end Sys2Proof.Machine
end

section
/-! Proofs about 30_encoding.md, first part: a word is cut into its fields and put together again
without loss (R80, R86), each operand form reads the fields its row is made of (R81, R82), so
decoding inverts encoding and encoding inverts decoding (R83, R84). -/

namespace Sys2Proof.Machine

open Laws

/-! A word is its fields (R80) -/

/-- A word is the sum of its fields at their places. -/
theorem toNat_eq_fields (w : Word) : w.toNat =
    (fieldsOf w).op.toNat * 0x1000000 + (fieldsOf w).vd.toNat * 0x100000 +
      (fieldsOf w).va.toNat * 0x10000 + (fieldsOf w).vb.toNat * 0x1000 + (fieldsOf w).imm.toNat := by
  have hw := w.isLt
  simp only [fieldsOf, BitVec.extractLsb'_toNat, Nat.shiftRight_eq_div_pow]
  omega

/-- No bit of a word is outside its fields. -/
theorem fieldsOf_inj {w w' : Word} : fieldsOf w = fieldsOf w' ↔ w = w' := by
  refine ⟨fun h => BitVec.eq_of_toNat_eq ?_, congrArg fieldsOf⟩
  rw [toNat_eq_fields w, toNat_eq_fields w', h]

/-- The word of a well-formed command has the fields of the command's row. -/
theorem fieldsOf_encode : ∀ {i : Instr}, i.wf = true → fieldsOf (encode i) = fieldsSpec i
  | .zeroize => EncodesFields.zeroize
  | .clrcnt => EncodesFields.clrcnt
  | .vand vd va vb => EncodesFields.vand vd va vb
  | .vor vd va vb => EncodesFields.vor vd va vb
  | .vxor vd va vb => EncodesFields.vxor vd va vb
  | .vsub vd va first last => EncodesFields.vsub vd va first last
  | .vcat vd va vb => EncodesFields.vcat vd va vb
  | .vpadl vd va length fill => EncodesFields.vpadl vd va length fill
  | .vshr vd va n => EncodesFields.vshr vd va n
  | .genipek vd va vb => EncodesFields.genipek vd va vb
  | .derive vd va vb => EncodesFields.derive vd va vb
  | .bpekh vd va vb => EncodesFields.bpekh vd va vb
  | .bpek vd va vb => EncodesFields.bpek vd va vb
  | .pekv vd va => EncodesFields.pekv vd va
  | .peknv vd va => EncodesFields.peknv vd va
  | .encd va vb => EncodesFields.encd va vb
  | .decd va vb => EncodesFields.decd va vb
  | .dectrk va vb => EncodesFields.dectrk va vb

/-- A 4-bit field is the field of the register it names. -/
@[simp] theorem regField_regOf (x : BitVec 4) : regField (regOf x) = x := by
  simp [regField, regOf]

/-! The immediates (R82) -/

/-- The fill byte is chosen by bit 8 of the immediate. -/
theorem fillBit_fillOf (imm : BitVec 12) : fillBit (fillOf imm) = imm.toNat / 256 % 2 := by
  have hbit : imm.getLsbD 8 = decide (imm.toNat / 256 % 2 = 1) := by
    rw [BitVec.getLsbD, Nat.testBit_eq_decide_div_mod_eq]
  rw [fillOf, hbit]
  obtain h | h := Nat.mod_two_eq_zero_or_one (imm.toNat / 256) <;> simp [h, fillBit]

/-- The immediate of `VSUB` is that of the two bounds read from it. -/
theorem fieldsSpec_of_decodeVsub {vd va : VIdx} {imm : BitVec 12} {i : Instr}
    (h : decodeVsub vd va imm = .ok i) :
    i.wf = true ∧ fieldsSpec i = ⟨0x13, regField vd, regField va, 0, imm⟩ := by
  have himm := imm.isLt
  have hfirst : (imm.extractLsb' 6 6).toNat = imm.toNat / 64 := by
    rw [BitVec.extractLsb'_toNat, Nat.shiftRight_eq_div_pow]
    omega
  have hlast : (imm.extractLsb' 0 6).toNat = imm.toNat % 64 := by
    rw [BitVec.extractLsb'_toNat, Nat.shiftRight_zero]
  cases h
  have hsum : imm.toNat / 64 * 64 + imm.toNat % 64 = imm.toNat := by omega
  rw [hfirst, hlast, fieldsSpec, hsum, BitVec.ofNat_toNat, BitVec.setWidth_eq]
  exact ⟨by simp only [Instr.wf, Bool.and_eq_true, decide_eq_true_eq]; omega, rfl⟩

/-- The bounds of `VSUB` are read back from their immediate. -/
theorem decodeVsub_ofNat (vd va : VIdx) {first last : Nat} (hf : first < 64) (hl : last < 64) :
    decodeVsub vd va (BitVec.ofNat 12 (first * 64 + last)) = .ok (.vsub vd va first last) := by
  simp only [decodeVsub, BitVec.extractLsb'_toNat, BitVec.toNat_ofNat, Nat.shiftRight_eq_div_pow]
  congr 2 <;> omega

/-- The unused bits of the immediate of `VPADL` are zero when it is a fill bit and a length. -/
theorem vpadlUnused_iff (imm : BitVec 12) :
    (imm.extractLsb' 9 3 = 0 ∧ imm.extractLsb' 6 2 = 0) ↔
      imm.toNat = imm.toNat / 256 % 2 * 256 + imm.toNat % 64 := by
  have himm := imm.isLt
  have hzero (n : Nat) : (0 : BitVec n).toNat = 0 := BitVec.toNat_zero
  simp only [← BitVec.toNat_inj, BitVec.extractLsb'_toNat, Nat.shiftRight_eq_div_pow, hzero]
  omega

/-- The two fill bytes have different fill bits. -/
theorem fillBit_injective : Function.Injective fillBit := by
  intro a b h
  cases a <;> cases b <;> trivial

/-- The immediate of `VPADL` is that of the length and fill byte read from it. -/
theorem fieldsSpec_of_decodeVpadl {op : BitVec 8} {vd va : VIdx} {imm : BitVec 12} {i : Instr}
    (h : decodeVpadl op vd va imm = .ok i) :
    i.wf = true ∧ fieldsSpec i = ⟨0x15, regField vd, regField va, 0, imm⟩ := by
  have hlength : (imm.extractLsb' 0 6).toNat = imm.toNat % 64 := by
    rw [BitVec.extractLsb'_toNat, Nat.shiftRight_zero]
  unfold decodeVpadl at h
  split at h
  · next hunused =>
    cases h
    rw [vpadlUnused_iff] at hunused
    rw [hlength, fieldsSpec, fillBit_fillOf, ← hunused, BitVec.ofNat_toNat, BitVec.setWidth_eq]
    exact ⟨by simp only [Instr.wf, decide_eq_true_eq]; omega, rfl⟩
  · cases h

/-- The length and fill byte of `VPADL` are read back from their immediate. -/
theorem decodeVpadl_ofNat (op : BitVec 8) (vd va : VIdx) {length : Nat} (fill : FillByte)
    (hl : length < 64) : decodeVpadl op vd va (BitVec.ofNat 12 (fillBit fill * 256 + length)) =
      .ok (.vpadl vd va length fill) := by
  have hfill : fillBit fill < 2 := by cases fill <;> decide
  have himm : (BitVec.ofNat 12 (fillBit fill * 256 + length)).toNat =
      fillBit fill * 256 + length := by
    rw [BitVec.toNat_ofNat]
    omega
  have hback : fillOf (BitVec.ofNat 12 (fillBit fill * 256 + length)) = fill := by
    have h := fillBit_fillOf (BitVec.ofNat 12 (fillBit fill * 256 + length))
    rw [himm, show (fillBit fill * 256 + length) / 256 % 2 = fillBit fill by omega] at h
    exact fillBit_injective h
  have hlength : ((BitVec.ofNat 12 (fillBit fill * 256 + length)).extractLsb' 0 6).toNat =
      length := by
    rw [BitVec.extractLsb'_toNat, Nat.shiftRight_zero, himm]
    omega
  rw [decodeVpadl, if_pos ((vpadlUnused_iff _).mpr (by rw [himm]; omega)), hback, hlength]

/-- The shift count of `VSHR` is the whole immediate. -/
theorem fieldsSpec_of_decodeVshr {vd va : VIdx} {imm : BitVec 12} {i : Instr}
    (h : decodeVshr vd va imm = .ok i) :
    i.wf = true ∧ fieldsSpec i = ⟨0x16, regField vd, regField va, 0, imm⟩ := by
  cases h
  rw [fieldsSpec, BitVec.ofNat_toNat, BitVec.setWidth_eq]
  exact ⟨decide_eq_true imm.isLt, rfl⟩

/-- The shift count of `VSHR` is read back from its immediate. -/
theorem decodeVshr_ofNat (vd va : VIdx) {n : Nat} (h : n < 4096) :
    decodeVshr vd va (BitVec.ofNat 12 n) = .ok (.vshr vd va n) := by
  rw [decodeVshr, BitVec.toNat_ofNat, Nat.mod_eq_of_lt h]

/-! The operand forms (R81): a form answers a command exactly when the fields it does not use are
zero -/

section Forms

variable {f : Fields} {i : Instr}

/-- A test that rejects on failure answers what it guards. -/
theorem ite_error_eq_ok_iff {p : Prop} [Decidable p] {x : Except DecodeError Instr}
    {e : DecodeError} : (if p then x else .error e) = .ok i ↔ p ∧ x = .ok i := by
  split <;> simp [*]

theorem decodeVVV_eq_ok_iff {mk : VIdx → VIdx → VIdx → Instr} : decodeVVV f mk = .ok i ↔
    f.imm = 0 ∧ mk (regOf f.vd) (regOf f.va) (regOf f.vb) = i := by
  rw [decodeVVV, ite_error_eq_ok_iff, Except.ok.injEq]

theorem decodeVV_eq_ok_iff {mk : VIdx → VIdx → Instr} : decodeVV f mk = .ok i ↔
    (f.vb = 0 ∧ f.imm = 0) ∧ mk (regOf f.vd) (regOf f.va) = i := by
  rw [decodeVV, ite_error_eq_ok_iff, Except.ok.injEq]

theorem decodeVVI_eq_ok_iff {mk : VIdx → VIdx → BitVec 12 → Except DecodeError Instr} :
    decodeVVI f mk = .ok i ↔ f.vb = 0 ∧ mk (regOf f.vd) (regOf f.va) f.imm = .ok i := by
  rw [decodeVVI, ite_error_eq_ok_iff]

theorem decodeSVV_eq_ok_iff {mk : VIdx → VIdx → Instr} : decodeSVV f mk = .ok i ↔
    (f.vd = 0 ∧ f.imm = 0) ∧ mk (regOf f.va) (regOf f.vb) = i := by
  rw [decodeSVV, ite_error_eq_ok_iff, Except.ok.injEq]

theorem decodeZ_eq_ok_iff {j : Instr} : decodeZ f j = .ok i ↔
    (f.vd = 0 ∧ f.va = 0 ∧ f.vb = 0 ∧ f.imm = 0) ∧ j = i := by
  rw [decodeZ, ite_error_eq_ok_iff, Except.ok.injEq]

/-! The command a form answers has the fields it was read from, if the form's constructor makes
commands with the opcode's fields. -/

variable {op : Nat}

theorem fieldsSpec_of_decodeVVV {mk : VIdx → VIdx → VIdx → Instr} (hop : f.op.toNat = op)
    (hmk : ∀ vd va vb, (mk vd va vb).wf = true ∧
      fieldsSpec (mk vd va vb) = ⟨BitVec.ofNat 8 op, regField vd, regField va, regField vb, 0⟩)
    (h : decodeVVV f mk = .ok i) : i.wf = true ∧ fieldsSpec i = f := by
  obtain ⟨himm, rfl⟩ := decodeVVV_eq_ok_iff.mp h
  refine (hmk _ _ _).imp_right fun hspec => hspec.trans ?_
  simp [← hop, ← himm]

theorem fieldsSpec_of_decodeVV {mk : VIdx → VIdx → Instr} (hop : f.op.toNat = op)
    (hmk : ∀ vd va, (mk vd va).wf = true ∧
      fieldsSpec (mk vd va) = ⟨BitVec.ofNat 8 op, regField vd, regField va, 0, 0⟩)
    (h : decodeVV f mk = .ok i) : i.wf = true ∧ fieldsSpec i = f := by
  obtain ⟨⟨hvb, himm⟩, rfl⟩ := decodeVV_eq_ok_iff.mp h
  refine (hmk _ _).imp_right fun hspec => hspec.trans ?_
  simp [← hop, ← hvb, ← himm]

theorem fieldsSpec_of_decodeVVI {mk : VIdx → VIdx → BitVec 12 → Except DecodeError Instr}
    (hop : f.op.toNat = op)
    (hmk : ∀ {vd va imm}, mk vd va imm = .ok i → i.wf = true ∧
      fieldsSpec i = ⟨BitVec.ofNat 8 op, regField vd, regField va, 0, imm⟩)
    (h : decodeVVI f mk = .ok i) : i.wf = true ∧ fieldsSpec i = f := by
  obtain ⟨hvb, hi⟩ := decodeVVI_eq_ok_iff.mp h
  refine (hmk hi).imp_right fun hspec => hspec.trans ?_
  simp [← hop, ← hvb]

theorem fieldsSpec_of_decodeSVV {mk : VIdx → VIdx → Instr} (hop : f.op.toNat = op)
    (hmk : ∀ va vb, (mk va vb).wf = true ∧
      fieldsSpec (mk va vb) = ⟨BitVec.ofNat 8 op, 0, regField va, regField vb, 0⟩)
    (h : decodeSVV f mk = .ok i) : i.wf = true ∧ fieldsSpec i = f := by
  obtain ⟨⟨hvd, himm⟩, rfl⟩ := decodeSVV_eq_ok_iff.mp h
  refine (hmk _ _).imp_right fun hspec => hspec.trans ?_
  simp [← hop, ← hvd, ← himm]

theorem fieldsSpec_of_decodeZ {j : Instr} (hop : f.op.toNat = op)
    (hj : j.wf = true ∧ fieldsSpec j = ⟨BitVec.ofNat 8 op, 0, 0, 0, 0⟩)
    (h : decodeZ f j = .ok i) : i.wf = true ∧ fieldsSpec i = f := by
  obtain ⟨⟨hvd, hva, hvb, himm⟩, rfl⟩ := decodeZ_eq_ok_iff.mp h
  refine hj.imp_right fun hspec => hspec.trans ?_
  cases f
  dsimp only at hop hvd hva hvb himm
  subst hop hvd hva hvb himm
  simp

end Forms

/-! The opcode map (R83) -/

/-- Fields that decode are the fields of the well-formed command they decode to. -/
theorem fieldsSpec_of_decodeFields {f : Fields} {i : Instr} (h : decodeFields f = .ok i) :
    i.wf = true ∧ fieldsSpec i = f := by
  unfold decodeFields at h
  split at h
  iterate 2
    next hop => exact fieldsSpec_of_decodeZ hop ⟨rfl, rfl⟩ h
  iterate 3
    next hop => exact fieldsSpec_of_decodeVVV hop (fun _ _ _ => ⟨rfl, rfl⟩) h
  next hop => exact fieldsSpec_of_decodeVVI hop fieldsSpec_of_decodeVsub h
  next hop => exact fieldsSpec_of_decodeVVV hop (fun _ _ _ => ⟨rfl, rfl⟩) h
  next hop => exact fieldsSpec_of_decodeVVI hop fieldsSpec_of_decodeVpadl h
  next hop => exact fieldsSpec_of_decodeVVI hop fieldsSpec_of_decodeVshr h
  iterate 4
    next hop => exact fieldsSpec_of_decodeVVV hop (fun _ _ _ => ⟨rfl, rfl⟩) h
  iterate 2
    next hop => exact fieldsSpec_of_decodeVV hop (fun _ _ => ⟨rfl, rfl⟩) h
  iterate 3
    next hop => exact fieldsSpec_of_decodeSVV hop (fun _ _ => ⟨rfl, rfl⟩) h
  next => cases h

/-- The fields of a well-formed command decode to it. -/
theorem decodeFields_fieldsSpec {i : Instr} (h : i.wf = true) :
    decodeFields (fieldsSpec i) = .ok i := by
  cases i with
  | zeroize | clrcnt => rfl
  | vand | vor | vxor | vcat | genipek | derive | bpekh | bpek =>
    exact decodeVVV_eq_ok_iff.mpr ⟨rfl, by simp only [fieldsSpec, regOf_regField]⟩
  | pekv | peknv =>
    exact decodeVV_eq_ok_iff.mpr ⟨⟨rfl, rfl⟩, by simp only [fieldsSpec, regOf_regField]⟩
  | encd | decd | dectrk =>
    exact decodeSVV_eq_ok_iff.mpr ⟨⟨rfl, rfl⟩, by simp only [fieldsSpec, regOf_regField]⟩
  | vsub vd va first last =>
    obtain ⟨hf, hl⟩ : first < 64 ∧ last < 64 := by simpa [Instr.wf] using h
    refine decodeVVI_eq_ok_iff.mpr ⟨rfl, ?_⟩
    simp only [fieldsSpec, regOf_regField]
    exact decodeVsub_ofNat vd va hf hl
  | vpadl vd va length fill =>
    have hl : length < 64 := by simpa [Instr.wf] using h
    refine decodeVVI_eq_ok_iff.mpr ⟨rfl, ?_⟩
    simp only [fieldsSpec, regOf_regField]
    exact decodeVpadl_ofNat _ vd va fill hl
  | vshr vd va n =>
    have hn : n < 4096 := by simpa [Instr.wf] using h
    refine decodeVVI_eq_ok_iff.mpr ⟨rfl, ?_⟩
    simp only [fieldsSpec, regOf_regField]
    exact decodeVshr_ofNat vd va hn

/-- Settles O10: the word holds the fields of the command's row, and these decode to the command. -/
theorem decodeOfEncodeIsTheInstruction : Obligations.DecodeOfEncodeIsTheInstruction := by
  intro i h
  rw [decode, fieldsOf_encode h, decodeFields_fieldsSpec h]

/-- Settles O11: the word and the command's word have the same fields. -/
theorem encodeOfDecodeIsTheWord : Obligations.EncodeOfDecodeIsTheWord := by
  intro w i h
  obtain ⟨hwf, hspec⟩ := fieldsSpec_of_decodeFields h
  exact ⟨hwf, fieldsOf_inj.mp ((fieldsOf_encode hwf).trans hspec)⟩

end Sys2Proof.Machine
end

section
/-! Proofs about 30_encoding.md, second part: a word decodes exactly when it matches a row of
spec/opcode_table.json (R81, R83, R84). A row is an opcode with an operand form; its mask holds the
opcode's bits and the bits the form does not use. -/

namespace Sys2Proof.Machine

open Laws

/-! Operand forms (R81, R82) -/

/-- The operand forms of R81. `VPADL` has the form `VVI` with unused bits in its immediate (R82). -/
inductive OperandForm
  | z
  | vvv
  | vv
  | vvi
  | vviPad
  | svv

/-- What a row compares: the opcode, and every bit its form does not use (R81, R82). -/
def OperandForm.compared : OperandForm → Fields
  | .z => ⟨.allOnes 8, .allOnes 4, .allOnes 4, .allOnes 4, .allOnes 12⟩
  | .vvv => ⟨.allOnes 8, 0, 0, 0, .allOnes 12⟩
  | .vv => ⟨.allOnes 8, 0, 0, .allOnes 4, .allOnes 12⟩
  | .vvi => ⟨.allOnes 8, 0, 0, .allOnes 4, 0⟩
  | .vviPad => ⟨.allOnes 8, 0, 0, .allOnes 4, 0xEC0⟩
  | .svv => ⟨.allOnes 8, .allOnes 4, 0, 0, .allOnes 12⟩

/-- The mask of a form. -/
def OperandForm.mask (form : OperandForm) : Word :=
  assemble 0xFF form.compared.vd.toNat form.compared.va.toNat form.compared.vb.toNat
    form.compared.imm.toNat

/-- The fields are zero in what the form does not use (R84). -/
def OperandForm.Fits (f : Fields) : OperandForm → Prop
  | .z => f.vd = 0 ∧ f.va = 0 ∧ f.vb = 0 ∧ f.imm = 0
  | .vvv => f.imm = 0
  | .vv => f.vb = 0 ∧ f.imm = 0
  | .vvi => f.vb = 0
  | .vviPad => f.vb = 0 ∧ f.imm.extractLsb' 9 3 = 0 ∧ f.imm.extractLsb' 6 2 = 0
  | .svv => f.vd = 0 ∧ f.imm = 0

/-! Rows (R83) -/

/-- The opcodes in the table's order, with their forms (R83). -/
def opcodeForms : List (Nat × OperandForm) :=
  [(0x02, .z), (0x03, .z), (0x10, .vvv), (0x11, .vvv), (0x12, .vvv), (0x13, .vvi), (0x14, .vvv),
   (0x15, .vviPad), (0x16, .vvi), (0x20, .vvv), (0x21, .vvv), (0x30, .vvv), (0x31, .vvv),
   (0x32, .vv), (0x33, .vv), (0x40, .svv), (0x41, .svv), (0x42, .svv)]

/-- The row of an opcode with its form: mask and match. -/
def rowOf (p : Nat × OperandForm) : Word × Word := (p.2.mask, assemble p.1 0 0 0 0)

/-- The rows of the table are those of the opcodes with their forms. -/
theorem opcodeRows_eq : opcodeRows = opcodeForms.map rowOf := by decide

/-- The opcodes are bytes. -/
theorem opcode_lt {p : Nat × OperandForm} (hp : p ∈ opcodeForms) : p.1 < 256 := by
  have h : ∀ op ∈ opcodeForms.map Prod.fst, op < 256 := by decide
  exact h p.1 (List.mem_map_of_mem hp)

/-- No opcode stands twice in the table (R83). -/
theorem nodup_opcodes : (opcodeForms.map Prod.fst).Nodup := by decide

/-! Matching a row, field by field -/

/-- The mask of a form covers the fields a row of the form compares. -/
theorem fieldsOf_mask (form : OperandForm) : fieldsOf form.mask = form.compared := by
  cases form <;> decide

/-- A word matches a mask exactly when each of its fields does. -/
theorem and_eq_iff_fields (w m r : Word) : w &&& m = r ↔
    (fieldsOf w).op &&& (fieldsOf m).op = (fieldsOf r).op ∧
    (fieldsOf w).vd &&& (fieldsOf m).vd = (fieldsOf r).vd ∧
    (fieldsOf w).va &&& (fieldsOf m).va = (fieldsOf r).va ∧
    (fieldsOf w).vb &&& (fieldsOf m).vb = (fieldsOf r).vb ∧
    (fieldsOf w).imm &&& (fieldsOf m).imm = (fieldsOf r).imm := by
  rw [← fieldsOf_inj]
  simp only [fieldsOf, BitVec.extractLsb'_and, Fields.mk.injEq]

/-- The unused bits of the immediate of `VPADL`, by mask and by position (R82). -/
theorem and_vpadlMask_eq_zero_iff (imm : BitVec 12) : imm &&& 0xEC0#12 = 0#12 ↔
    imm.extractLsb' 9 3 = 0#3 ∧ imm.extractLsb' 6 2 = 0#2 := by
  simp only [BitVec.eq_of_getLsbD_eq_iff, Nat.forall_lt_succ_right, BitVec.getLsbD_and,
    BitVec.getLsbD_extractLsb']
  simp [and_assoc, and_comm]

/-- A word matches a row exactly when it has the opcode and is zero in what the form does not use. -/
theorem matches_rowOf_iff (w : Word) {p : Nat × OperandForm} (hp : p ∈ opcodeForms) :
    w &&& (rowOf p).1 = (rowOf p).2 ↔
      (fieldsOf w).op.toNat = p.1 ∧ p.2.Fits (fieldsOf w) := by
  have hlt : p.1 < 256 := opcode_lt hp
  have hop : (fieldsOf w).op.toNat = p.1 ↔ (fieldsOf w).op = BitVec.ofNat 8 p.1 := by
    rw [← BitVec.toNat_inj, BitVec.toNat_ofNat, Nat.mod_eq_of_lt hlt]
  rw [and_eq_iff_fields, rowOf, fieldsOf_mask, hop,
    fieldsOf_assemble p.1 0 0 0 0 hlt (by decide) (by decide) (by decide) (by decide)]
  cases p.2 <;>
    simp [OperandForm.compared, OperandForm.Fits, and_vpadlMask_eq_zero_iff, -BitVec.reduceAllOnes]

/-! Which fields decode (R84): a form answers a command exactly when the fields fit it -/

section Forms

variable {f : Fields}

theorem exists_decodeZ_iff {j : Instr} : (∃ i, decodeZ f j = .ok i) ↔ OperandForm.z.Fits f := by
  simp [decodeZ_eq_ok_iff, OperandForm.Fits]

theorem exists_decodeVVV_iff {mk : VIdx → VIdx → VIdx → Instr} :
    (∃ i, decodeVVV f mk = .ok i) ↔ OperandForm.vvv.Fits f := by
  simp [decodeVVV_eq_ok_iff, OperandForm.Fits]

theorem exists_decodeVV_iff {mk : VIdx → VIdx → Instr} :
    (∃ i, decodeVV f mk = .ok i) ↔ OperandForm.vv.Fits f := by
  simp [decodeVV_eq_ok_iff, OperandForm.Fits]

theorem exists_decodeSVV_iff {mk : VIdx → VIdx → Instr} :
    (∃ i, decodeSVV f mk = .ok i) ↔ OperandForm.svv.Fits f := by
  simp [decodeSVV_eq_ok_iff, OperandForm.Fits]

theorem exists_decodeVVI_decodeVsub_iff :
    (∃ i, decodeVVI f decodeVsub = .ok i) ↔ OperandForm.vvi.Fits f := by
  simp [decodeVVI_eq_ok_iff, decodeVsub, OperandForm.Fits]

theorem exists_decodeVVI_decodeVshr_iff :
    (∃ i, decodeVVI f decodeVshr = .ok i) ↔ OperandForm.vvi.Fits f := by
  simp [decodeVVI_eq_ok_iff, decodeVshr, OperandForm.Fits]

theorem exists_decodeVVI_decodeVpadl_iff {op : BitVec 8} :
    (∃ i, decodeVVI f (decodeVpadl op) = .ok i) ↔ OperandForm.vviPad.Fits f := by
  simp [decodeVVI_eq_ok_iff, decodeVpadl, ite_error_eq_ok_iff, OperandForm.Fits]

/-- At the opcode of a row, what the row's form decodes is what matches some row: the opcodes differ,
so no other row matches. -/
theorem exists_ok_iff_row {x : Except DecodeError Instr} {op : Nat} {form : OperandForm}
    (hop : f.op.toNat = op) (hx : (∃ i, x = .ok i) ↔ form.Fits f)
    (hmem : (op, form) ∈ opcodeForms := by simp [opcodeForms]) :
    (∃ i, x = .ok i) ↔ ∃ p ∈ opcodeForms, f.op.toNat = p.1 ∧ p.2.Fits f := by
  refine hx.trans ⟨fun hfit => ⟨_, hmem, hop, hfit⟩, ?_⟩
  rintro ⟨p, hp, hpop, hfit⟩
  obtain rfl : (op, form) = p :=
    List.inj_on_of_nodup_map nodup_opcodes hmem hp (hop.symm.trans hpop)
  exact hfit

/-- Fields decode exactly when their opcode is assigned and they fit its form (R84). -/
theorem exists_decodeFields_iff : (∃ i, decodeFields f = .ok i) ↔
    ∃ p ∈ opcodeForms, f.op.toNat = p.1 ∧ p.2.Fits f := by
  unfold decodeFields
  split
  iterate 2
    next hop => exact exists_ok_iff_row hop exists_decodeZ_iff
  iterate 3
    next hop => exact exists_ok_iff_row hop exists_decodeVVV_iff
  next hop => exact exists_ok_iff_row hop exists_decodeVVI_decodeVsub_iff
  next hop => exact exists_ok_iff_row hop exists_decodeVVV_iff
  next hop => exact exists_ok_iff_row hop exists_decodeVVI_decodeVpadl_iff
  next hop => exact exists_ok_iff_row hop exists_decodeVVI_decodeVshr_iff
  iterate 4
    next hop => exact exists_ok_iff_row hop exists_decodeVVV_iff
  iterate 2
    next hop => exact exists_ok_iff_row hop exists_decodeVV_iff
  iterate 3
    next hop => exact exists_ok_iff_row hop exists_decodeSVV_iff
  next =>
    refine iff_of_false nofun ?_
    rintro ⟨p, hp, hop, -⟩
    have hassigned := List.mem_map_of_mem (f := Prod.fst) hp
    simp only [← hop, opcodeForms, List.map_cons, List.map_nil, List.mem_cons, List.not_mem_nil,
      or_false] at hassigned
    simp_all

end Forms

/-- A word decodes exactly when it matches a row (R84). -/
theorem exists_decode_iff_matches (w : Word) :
    (∃ i, decode w = .ok i) ↔ ∃ row ∈ opcodeRows, w &&& row.1 = row.2 := by
  simp only [opcodeRows_eq, List.mem_map, exists_exists_and_eq_and]
  refine exists_decodeFields_iff.trans (exists_congr fun p => and_congr_right fun hp => ?_)
  exact (matches_rowOf_iff w hp).symm

/-- The row at a place of the table is that of the opcode there, and a word that matches it has this
opcode. -/
theorem opcode_of_matches_row {w : Word} {j : Nat} {r : Word × Word} (hr : opcodeRows[j]? = some r)
    (hm : w &&& r.1 = r.2) :
    (opcodeForms.map Prod.fst)[j]? = some (fieldsOf w).op.toNat := by
  rw [opcodeRows_eq, List.getElem?_map, Option.map_eq_some_iff] at hr
  obtain ⟨p, hp, rfl⟩ := hr
  obtain ⟨hop, -⟩ := (matches_rowOf_iff w (List.mem_of_getElem? hp)).mp hm
  rw [List.getElem?_map, hp, Option.map_some, hop]

/-- Settles O12: decoding and the table test the same fields, and the opcodes of the rows differ. -/
theorem wordsDecodeExactlyByTheTable : Obligations.WordsDecodeExactlyByTheTable := by
  refine fun w => ⟨exists_decode_iff_matches w, fun j k r q hj hk hr hq => ?_⟩
  have hjop := opcode_of_matches_row hj hr
  have hkop := opcode_of_matches_row hk hq
  have hlt := (List.getElem?_eq_some_iff.mp hjop).1
  exact (List.getElem?_inj hlt nodup_opcodes).mp (hjop.trans hkop.symm)

end Sys2Proof.Machine
end

section
/-! Proofs about 30_encoding.md, third part: what a word does when it is written to `CMD` (R84, R85),
the pseudo-instructions, and the host accesses of LDV and LDP (R87). -/

namespace Sys2Proof.Machine

/-! Words (R80 to R85) -/

/-- A command's word, written out, decodes to the command. -/
theorem decode_of_encode_eq {i : Instr} {w : Word} (hwf : i.wf = true) (hw : encode i = w) :
    decode w = .ok i :=
  hw ▸ decodeOfEncodeIsTheInstruction i hwf

/-- Settles O9: the legal words are those of their commands; the illegal ones are evaluated. -/
theorem decodeSampleWords : Obligations.DecodeSampleWords := by
  refine ⟨?_, ?_, ?_, ?_, ?_, ?_, ?_, ?_, ?_, rfl, rfl, rfl⟩ <;>
    exact decode_of_encode_eq (by decide) (by decide)

/-- Settles O13: the step executes the word, which raises `IllegalCommand` before any request. -/
theorem illegalWordAborts : Obligations.IllegalWordAborts := by
  intro s w d rest hp hw
  rw [step_commandWrite hp, execute, hw, afterAbort, ranEngine_zero]
  rfl

/-- Every input has a next state. -/
theorem perform_next (a : HostInput) (s : State) : ∃ t, perform a s = .next t := by
  obtain ⟨w, ha⟩ | ⟨w, tgt, ha⟩ | ⟨b, ha⟩ | ⟨-, ha⟩ := perform_cases a s <;> rw [ha]
  · obtain ⟨t, ht, -⟩ := execute_commandStatus w { s with cmd := w, bus := .done }
    exact ⟨t, ht⟩
  all_goals exact ⟨_, rfl⟩

/-- Settles O15: an idle block stays, and every input has a next state. -/
theorem everyStepAnswersNext : Obligations.EveryStepAnswersNext := by
  intro s
  cases hp : s.pending with
  | nil => exact ⟨s, step_idle s hp⟩
  | cons a rest => exact step_of_pending hp ▸ perform_next a _

/-! Pseudo-instructions (R87) -/

/-- A shift by nothing keeps the vector (R107). -/
@[simp] theorem shrBytes_zero (a : ByteVec) : shrBytes a 0 = a := by
  rw [shrBytes, pow_zero, Nat.div_one, encBytes_beInt]

/-- A vector XORed with itself is zero (R103). -/
theorem xorBytes_self (a : ByteVec) : xorBytes a a = fillBytes a.length 0 := by
  induction a with
  | nil => rfl
  | cons b a ih => simp [xorBytes, fillBytes, List.replicate_succ]

/-- Settles O58: a shift by 0 and an XOR with itself complete without a request. -/
theorem pseudoInstructionResults : Obligations.PseudoInstructionResults := by
  intro vd va s
  have hvmov : shiftRight 0 (s.vval va) s.eng = .ok (s.vval va) s.eng := by
    rw [shiftRight, shrBytes_zero]
  have hvclr : elementwise xorBytes (s.vval vd) (s.vval vd) s.eng =
      .ok (fillBytes (s.vval vd).length 0) s.eng := by
    rw [elementwise, if_neg (not_not.mpr rfl), xorBytes_self]
  have hdone (r : ByteVec) : finishV vd s (.ok r s.eng) = afterV s vd r 0 0 :=
    finishV_ok_eq_afterV vd s r (ranEngine_zero s.eng).symm
  exact ⟨congrArg Host.Outcome.next ((congrArg _ hvmov).trans (hdone _)),
    congrArg Host.Outcome.next ((congrArg _ hvclr).trans (hdone _))⟩

/-! Running several steps -/

/-- A run whose first step has a next state goes on from there. -/
theorem run_succ {s t : State} (h : step s = .next t) (n : Nat) :
    core.run (n + 1) s = core.run n t := by
  have hstep : core.step s = .next t := h
  simp only [Host.Core.run, hstep]

/-! The data words of a load (R54, R87) -/

/-- The bytes of a packed word, most significant first. -/
theorem packWord_byte (b : Nat → Byte) {j : Nat} (hj : j < 4) :
    BitVec.ofNat 8 ((packWord (b 0) (b 1) (b 2) (b 3)).toNat / 256 ^ (3 - j)) = b j := by
  have h0 := (b 0).isLt
  have h1 := (b 1).isLt
  have h2 := (b 2).isLt
  have h3 := (b 3).isLt
  apply BitVec.eq_of_toNat_eq
  rw [BitVec.toNat_ofNat, packWord, BitVec.toNat_ofNat]
  interval_cases j <;> omega

/-- Replacing word `k` by word `k` of a vector makes its four bytes those of the vector. -/
theorem WordReplaced.byte_loadWord {cap : Nat} {b b' : Buf cap} {v : ByteVec} {k : Nat}
    (h : WordReplaced b b' k (loadWord v k)) {j : Nat} (hj : j < cap) :
    b'.byte j = if j / 4 = k then v.getD j 0 else b.byte j := by
  rw [h.2 j hj]
  split
  · next hk =>
    have hbyte := packWord_byte (fun m => v.getD (4 * k + m) 0) (Nat.mod_lt j (by decide))
    rw [show 4 * k + j % 4 = j by omega] at hbyte
    exact hbyte
  · rfl

/-- A buffer whose first bytes are those of a vector of its length has this vector as its value. -/
theorem value_eq_of_byte {cap : Nat} {b : Buf cap} {v : ByteVec} (hlen : b.len = v.length)
    (hcap : v.length ≤ cap) (hbyte : ∀ j < v.length, b.byte j = v.getD j 0) : b.value = v := by
  have hl : b.value.length = v.length := by rw [length_value, hlen, Nat.min_eq_left hcap]
  refine List.ext_getElem hl fun j hj hv => ?_
  have h := hbyte j hv
  have hjcap : j < b.data.toList.length := by simpa using lt_of_lt_of_le hv hcap
  rw [Buf.byte, List.getD_eq_getElem _ _ hjcap, List.getD_eq_getElem _ _ hv] at h
  simpa [Buf.value] using h

/-- `n` data writes from word `k` on, one access for each, load the bytes of words `k` to
`k + n - 1`. `put` is the state around the buffer, with the accesses still to come. -/
theorem run_dataWrites {cap : Nat} {v : ByteVec} {put : Buf cap → List HostInput → State}
    {write : Nat → HostInput} {words : Nat} (hcap : 4 * words ≤ cap)
    (hwrite : ∀ b k ps, k < words → ∃ b', WordReplaced b b' k (loadWord v k) ∧
      step (put b (write k :: ps)) = .next (put b' ps)) (rest : List HostInput) (n : Nat) :
    ∀ (k : Nat) (b : Buf cap), k + n ≤ words → (∀ j < 4 * k, b.byte j = v.getD j 0) →
      ∃ b' : Buf cap, core.run n (put b ((List.range' k n).map write ++ rest)) = .next (put b' rest) ∧
        b'.len = b.len ∧ ∀ j < 4 * (k + n), b'.byte j = v.getD j 0 := by
  induction n with
  | zero => exact fun k b _ hb => ⟨b, rfl, rfl, hb⟩
  | succ n ih =>
    intro k b hk hb
    obtain ⟨b1, hrep, hstep⟩ := hwrite b k ((List.range' (k + 1) n).map write ++ rest) (by omega)
    have hb1 : ∀ j < 4 * (k + 1), b1.byte j = v.getD j 0 := by
      intro j hj
      rw [hrep.byte_loadWord (by omega)]
      split
      · rfl
      · exact hb j (by omega)
    obtain ⟨b2, hrun, hlen, hb2⟩ := ih (k + 1) b1 (by omega) hb1
    refine ⟨b2, ?_, hlen.trans hrep.1, fun j hj => hb2 j (by omega)⟩
    rw [List.range'_succ, List.map_cons, List.cons_append, run_succ hstep, hrun]

/-- The data writes of a load give a buffer of the vector's length its value. -/
theorem run_loadWords {cap base : Nat} {v : ByteVec} {put : Buf cap → List HostInput → State}
    (hcap : v.length ≤ cap) (hwhole : cap % 4 = 0)
    (hwrite : ∀ b k w ps, 4 * k < cap → ∃ b', WordReplaced b b' k w ∧
      step (put b (macroHW (BitVec.ofNat 12 (base + 4 * k)) w :: ps)) = .next (put b' ps))
    (rest : List HostInput) {b : Buf cap} (hlen : b.len = v.length) :
    ∃ b' : Buf cap, core.run (loadWords base v).length (put b (loadWords base v ++ rest)) =
      .next (put b' rest) ∧ b'.value = v := by
  obtain ⟨b', hrun, hlen', hbyte⟩ := run_dataWrites (words := (v.length + 3) / 4)
    (by omega) (fun b k ps hk => hwrite b k (loadWord v k) ps (by omega)) rest _ 0 b
    (Nat.zero_add _).le nofun
  refine ⟨b', ?_, value_eq_of_byte (hlen'.trans hlen) hcap fun j hj => hbyte j (by omega)⟩
  rw [loadWords, List.length_map, List.length_range, List.range_eq_range']
  exact hrun

/-! The states a load goes through -/

/-- `s` with the buffer of vector register `i` replaced, at the end of an accepted host write. -/
def loadingV (s : State) (i : VIdx) (b : Buf vcap) (ps : List HostInput) : State :=
  { s.setVreg i b with pending := ps, bus := .done }

/-- `s` with the payload buffer replaced, at the end of an accepted host write. -/
def loadingP (s : State) (b : Buf pcap) (ps : List HostInput) : State :=
  { s with p := b, pending := ps, bus := .done }

theorem vreg_loadingV_self (s : State) (i : VIdx) (b : Buf vcap) (ps : List HostInput) :
    (loadingV s i b ps).vreg i = b := vreg_setVreg_self s i b

/-- A load leaves the other vector registers as they were. -/
theorem vreg_loadingV_of_ne (s : State) {i j : VIdx} (b : Buf vcap) (ps : List HostInput)
    (h : j ≠ i) : (loadingV s i b ps).vreg j = s.vreg j := vreg_setVreg_of_ne s b h.symm

/-- A data write to the register being loaded replaces its word (R53). -/
theorem step_loadingV (s : State) (i : VIdx) (b : Buf vcap) (k : Nat) (w : Word)
    (ps : List HostInput) (hk : 4 * k < vcap) : ∃ b', WordReplaced b b' k w ∧
      step (loadingV s i b (macroHW (BitVec.ofNat 12 (0x120 + 0x40 * i + 4 * k)) w :: ps)) =
        .next (loadingV s i b' ps) := by
  have hk8 : k < 8 := by unfold vcap at hk; omega
  obtain ⟨-, -, hdata, -⟩ := hostWriteStoresOnlyItsLocation
    (loadingV s i b (macroHW (vdataAddr i k) w :: ps)) w ps
  obtain ⟨b', hrep, hstep⟩ := hdata i k hk8 rfl
  rw [vreg_loadingV_self] at hrep
  refine ⟨b', hrep, hstep.trans ?_⟩
  simp [loadingV]

/-- A data write to the payload buffer replaces its word (R53). -/
theorem step_loadingP (s : State) (b : Buf pcap) (k : Nat) (w : Word) (ps : List HostInput)
    (hk : 4 * k < pcap) : ∃ b', WordReplaced b b' k w ∧
      step (loadingP s b (macroHW (BitVec.ofNat 12 (0x800 + 4 * k)) w :: ps)) =
        .next (loadingP s b' ps) := by
  obtain ⟨-, -, -, hdata⟩ := hostWriteStoresOnlyItsLocation
    (loadingP s b (macroHW (pdataAddr k) w :: ps)) w ps
  have hcap : pcap = 256 := rfl
  exact hdata k (by omega) rfl

/-- The length of a vector that fits is written as it is. -/
theorem toNat_lengthWord {v : ByteVec} (h : v.length ≤ pcap) :
    (BitVec.ofNat 32 v.length).toNat = v.length := by
  have hcap : v.length ≤ 256 := h
  rw [BitVec.toNat_ofNat]
  omega

/-- Settles O57: the length write makes room for the vector, the data writes fill it in. -/
theorem loadMacrosLoad : Obligations.LoadMacrosLoad := by
  intro v s rest
  constructor
  · intro i hv hp
    have hlen := toNat_lengthWord (hv.trans (by decide))
    obtain ⟨hfirst, -⟩ := hostWriteStoresOnlyItsLocation s _ _
    have hstep := hfirst i hp (hlen.trans_le hv)
    rw [hlen] at hstep
    obtain ⟨b, hrun, hvalue⟩ := run_loadWords hv rfl (step_loadingV s i) rest
      (b := (s.vreg i).setLen v.length) rfl
    refine ⟨_, (run_succ hstep _).trans hrun, ?_, fun j hj => vreg_loadingV_of_ne s b rest hj,
      rfl, rfl, rfl, rfl, rfl, rfl⟩
    rw [State.vval, vreg_loadingV_self, hvalue]
  · intro hv hp
    have hlen := toNat_lengthWord hv
    obtain ⟨-, hfirst, -⟩ := hostWriteStoresOnlyItsLocation s _ _
    have hstep := hfirst hp (hlen.trans_le hv)
    rw [hlen] at hstep
    obtain ⟨b, hrun, hvalue⟩ := run_loadWords hv rfl (step_loadingP s) rest
      (b := s.p.setLen v.length) rfl
    exact ⟨_, (run_succ hstep _).trans hrun, hvalue, rfl, rfl, rfl, rfl, rfl, rfl⟩

end Sys2Proof.Machine
end

section
/-! Proofs about 40_bytevector_alu.md: the byte-vector unit (R100 to R108). -/

namespace Sys2Proof.Machine

open Laws

/-! Commands that issue no request (R100) -/

section NoRequest

variable {s : State} {vd va vb : VIdx} {r : ByteVec} {err : Err}

/-- A two-operand command whose function completes and leaves the engine as it is. -/
theorem formVVV_ok {f : ByteVec → ByteVec → Engine → Res ByteVec}
    (h : f (s.vval va) (s.vval vb) s.eng = .ok r s.eng) :
    formVVV f vd va vb s = afterV s vd r 0 0 := by
  rw [formVVV, h, finishV_ok_eq_afterV vd s r (ranEngine_zero s.eng).symm]

/-- A two-operand command whose function raises and leaves the engine as it is. -/
theorem formVVV_raise {f : ByteVec → ByteVec → Engine → Res ByteVec}
    (h : f (s.vval va) (s.vval vb) s.eng = .raise err s.eng) :
    formVVV f vd va vb s = afterAbort s (errCode err) 0 0 := by
  rw [formVVV, h, finishV_raise_eq_afterAbort vd s err (ranEngine_zero s.eng).symm]

/-- A one-operand command whose function completes and leaves the engine as it is. -/
theorem formVV_ok {f : ByteVec → Engine → Res ByteVec} (h : f (s.vval va) s.eng = .ok r s.eng) :
    formVV f vd va s = afterV s vd r 0 0 := by
  rw [formVV, h, finishV_ok_eq_afterV vd s r (ranEngine_zero s.eng).symm]

/-- A one-operand command whose function raises and leaves the engine as it is. -/
theorem formVV_raise {f : ByteVec → Engine → Res ByteVec}
    (h : f (s.vval va) s.eng = .raise err s.eng) :
    formVV f vd va s = afterAbort s (errCode err) 0 0 := by
  rw [formVV, h, finishV_raise_eq_afterAbort vd s err (ranEngine_zero s.eng).symm]

/-- The destination of a completed command holds the result; the other registers keep theirs. -/
theorem vval_afterV {i j : VIdx} {ns nt : Nat} (h : r.length ≤ vcap) :
    (afterV s i r ns nt).vval j = if i = j then r else s.vval j := vval_writeV s i j r h

/-- A second result in the same register replaces the first. -/
theorem afterV_afterV (s : State) (i : VIdx) (r r' : ByteVec) :
    afterV (afterV s i r 0 0) i r' 0 0 = afterV s i r' 0 0 := by
  simp [afterV, Engine.clear]

end NoRequest

/-- A command's opcode is the one of its row (30_encoding.md R83). -/
theorem opIs_of_fieldsSpec {i : Instr} {op : Byte} (h : (fieldsSpec i).op = op) : OpIs i op :=
  fun hwf => (congrArg Fields.op (fieldsOf_encode hwf)).trans h

/-! What the commands do, by their tests (R101 to R107) -/

section Results

variable {s : State} {vd va vb : VIdx}

theorem formVVV_elementwise_of_length_eq (f : ByteVec → ByteVec → ByteVec)
    (h : (s.vval va).length = (s.vval vb).length) :
    formVVV (elementwise f) vd va vb s = afterV s vd (f (s.vval va) (s.vval vb)) 0 0 :=
  formVVV_ok (if_neg (not_not.mpr h))

theorem formVVV_elementwise_of_length_ne (f : ByteVec → ByteVec → ByteVec)
    (h : (s.vval va).length ≠ (s.vval vb).length) :
    formVVV (elementwise f) vd va vb s = afterAbort s 3 0 0 :=
  formVVV_raise (err := .lengthMismatch) (if_pos h)

theorem exec_vxor_of_length_eq (h : (s.vval va).length = (s.vval vb).length) :
    exec (.vxor vd va vb) s = .next (afterV s vd (xorBytes (s.vval va) (s.vval vb)) 0 0) :=
  congrArg Host.Outcome.next (formVVV_elementwise_of_length_eq xorBytes h)

theorem exec_vsub_of_inRange {first last : Nat} (hle : first ≤ last)
    (hlt : last < (s.vval va).length) :
    exec (.vsub vd va first last) s = .next (afterV s vd (subBytes (s.vval va) first last) 0 0) :=
  congrArg Host.Outcome.next (formVV_ok (if_neg (by omega)))

theorem exec_vsub_of_outOfRange {first last : Nat}
    (h : first > last ∨ last ≥ (s.vval va).length) :
    exec (.vsub vd va first last) s = .next (afterAbort s 4 0 0) :=
  congrArg Host.Outcome.next (formVV_raise (err := .indexOutOfRange) (if_pos h))

theorem exec_vcat_of_fits (h : (s.vval va).length + (s.vval vb).length ≤ vcap) :
    exec (.vcat vd va vb) s = .next (afterV s vd (s.vval va ++ s.vval vb) 0 0) :=
  congrArg Host.Outcome.next (formVVV_ok (if_neg (Nat.not_lt.mpr h)))

theorem exec_vcat_of_overflow (h : (s.vval va).length + (s.vval vb).length > vcap) :
    exec (.vcat vd va vb) s = .next (afterAbort s 8 0 0) :=
  congrArg Host.Outcome.next (formVVV_raise (err := .vectorOverflow) (if_pos h))

theorem exec_vpadl_of_fits {length : Nat} (fill : FillByte) (hcap : length ≤ vcap)
    (hlen : (s.vval va).length ≤ length) :
    exec (.vpadl vd va length fill) s = .next (afterV s vd
      (fillBytes (length - (s.vval va).length) (fillValue fill) ++ s.vval va) 0 0) :=
  congrArg Host.Outcome.next
    (formVV_ok ((if_neg (Nat.not_lt.mpr hcap)).trans (if_neg (Nat.not_lt.mpr hlen))))

theorem exec_vpadl_of_overflow {length : Nat} (fill : FillByte) (hcap : length > vcap) :
    exec (.vpadl vd va length fill) s = .next (afterAbort s 8 0 0) :=
  congrArg Host.Outcome.next (formVV_raise (err := .vectorOverflow) (if_pos hcap))

theorem exec_vpadl_of_tooLong {length : Nat} (fill : FillByte) (hcap : length ≤ vcap)
    (hlen : (s.vval va).length > length) :
    exec (.vpadl vd va length fill) s = .next (afterAbort s 4 0 0) :=
  congrArg Host.Outcome.next (formVV_raise (err := .indexOutOfRange)
    ((if_neg (Nat.not_lt.mpr hcap)).trans (if_pos hlen)))

/-- VSHR completes for every operand (R107). -/
theorem exec_vshr (vd va : VIdx) (n : Nat) (s : State) :
    exec (.vshr vd va n) s = .next (afterV s vd (shrBytes (s.vval va) n) 0 0) :=
  congrArg Host.Outcome.next (formVV_ok (f := shiftRight n) rfl)

end Results

/-! The bytes of the results (R101 to R106) -/

theorem getD_zipWith (f : Byte → Byte → Byte) {a b : ByteVec} {k : Nat} (ha : k < a.length)
    (hb : k < b.length) : (List.zipWith f a b).getD k 0 = f (a.getD k 0) (b.getD k 0) := by
  simp [ha, hb]

theorem getD_subBytes (v : ByteVec) {i j k : Nat} (h : k < j + 1 - i) :
    (subBytes v i j).getD k 0 = v.getD (i + k) 0 := by
  simp [subBytes, List.getElem?_take_of_lt h]

theorem getD_fillBytes {n k : Nat} (b : Byte) (h : k < n) : (fillBytes n b).getD k 0 = b := by
  simp [fillBytes, h]

/-- The bytes of the right part of a concatenation. -/
theorem getD_append_add (a b : ByteVec) (k : Nat) :
    (a ++ b).getD (a.length + k) 0 = b.getD k 0 := by
  rw [List.getD_append_right a b 0 _ (Nat.le_add_right _ _), Nat.add_sub_cancel_left]

/-- A command that tests the lengths and then combines the vectors byte by byte follows the rule of
the element-wise commands (R101 to R103). -/
theorem elementwiseRule_of_zipWith {mk : VIdx → VIdx → VIdx → Instr} {op : Byte}
    {f : Byte → Byte → Byte} (hop : ∀ vd va vb, (fieldsSpec (mk vd va vb)).op = op)
    (hexec : ∀ vd va vb s,
      exec (mk vd va vb) s = .next (formVVV (elementwise (List.zipWith f)) vd va vb s)) :
    ElementwiseRule mk op f := by
  intro vd va vb s
  refine ⟨opIs_of_fieldsSpec (hop vd va vb), fun heq => ?_, fun hne => ?_⟩
  · refine ⟨List.zipWith f (s.vval va) (s.vval vb), ?_, fun k hk => ?_, ?_⟩
    · rw [List.length_zipWith, heq, Nat.min_self]
    · obtain ⟨ha, hb⟩ := Nat.lt_min.mp (hk.trans_eq List.length_zipWith)
      exact getD_zipWith f ha hb
    · rw [hexec, formVVV_elementwise_of_length_eq _ heq]
  · rw [hexec, formVVV_elementwise_of_length_ne _ hne]

/-- Settles O23: all three commands are `elementwise` with a byte-by-byte function. -/
theorem elementwiseCommands : Obligations.ElementwiseCommands :=
  ⟨elementwiseRule_of_zipWith (fun _ _ _ => rfl) (fun _ _ _ _ => rfl),
    elementwiseRule_of_zipWith (fun _ _ _ => rfl) (fun _ _ _ _ => rfl),
    elementwiseRule_of_zipWith (fun _ _ _ => rfl) (fun _ _ _ _ => rfl)⟩

/-- Settles O24, by the range test. -/
theorem vsubSubrange : Obligations.VsubSubrange := by
  intro vd va first last s
  refine ⟨opIs_of_fieldsSpec rfl, fun hle hlt => ?_, exec_vsub_of_outOfRange⟩
  have hlen : (subBytes (s.vval va) first last).length = last - first + 1 := by
    rw [length_subBytes]
    omega
  exact ⟨_, hlen, fun k hk => getD_subBytes _ (by omega), exec_vsub_of_inRange hle hlt⟩

/-- Settles O25, by the capacity test. -/
theorem vcatConcatenation : Obligations.VcatConcatenation := by
  intro vd va vb s
  refine ⟨opIs_of_fieldsSpec rfl, fun hfits => ?_, exec_vcat_of_overflow⟩
  exact ⟨_, List.length_append, fun k hk => List.getD_append _ _ _ k hk,
    fun k _ => getD_append_add _ _ k, exec_vcat_of_fits hfits⟩

/-- Settles O26, by the two tests in their order. -/
theorem vpadlPadding : Obligations.VpadlPadding := by
  intro vd va length fill s
  refine ⟨opIs_of_fieldsSpec rfl, fun hcap hlen => ?_, exec_vpadl_of_overflow fill,
    exec_vpadl_of_tooLong fill⟩
  have hpad (b : Byte) := length_fillBytes (length - (s.vval va).length) b
  refine ⟨_, ?_, fun k hk => ?_, fun k _ => ?_, exec_vpadl_of_fits fill hcap hlen⟩
  · rw [List.length_append, hpad]
    omega
  · rw [List.getD_append _ _ _ k (hk.trans_eq (hpad _).symm), getD_fillBytes _ hk]
    cases fill <;> rfl
  · have hright := getD_append_add (fillBytes (length - (s.vval va).length) (fillValue fill))
      (s.vval va) k
    rwa [hpad] at hright

/-! The right shift (R107, R108) -/

/-- Settles O27, from the integer of a right shift. -/
theorem vshrIsFloorDivision : Obligations.VshrIsFloorDivision := fun vd va n s =>
  ⟨opIs_of_fieldsSpec rfl, _, length_shrBytes _ n, beInt_shrBytes _ n, exec_vshr vd va n s⟩

/-- Byte `j` of a vector's integer, counted from the low end: a byte of the vector, 0 above it. -/
theorem ofNat_beInt_div (a : ByteVec) (j : Nat) : BitVec.ofNat 8 (beInt a / 256 ^ j) =
    if j < a.length then a.getD (a.length - 1 - j) 0 else 0 := by
  split
  · next hj =>
    have h := getElem?_encBytes a.length (beInt a) (a.length - 1 - j) (by omega)
    rw [encBytes_beInt, show a.length - 1 - (a.length - 1 - j) = j by omega] at h
    rw [List.getD_eq_getElem?_getD, h, Option.getD_some]
  · next hj =>
    have hlt : beInt a < 256 ^ j :=
      (beInt_lt a).trans_le (Nat.pow_le_pow_right (by decide) (Nat.not_lt.mp hj))
    rw [Nat.div_eq_of_lt hlt]
    rfl

/-- The low byte of a number shifted right by less than a byte, from the number's two low bytes. -/
theorem ofNat_div_two_pow (x : Nat) {m : Nat} (hm : m < 8) : BitVec.ofNat 8 (x / 2 ^ m) =
    (BitVec.ofNat 8 x >>> m) ||| (BitVec.ofNat 8 (x / 256) <<< (8 - m)) := by
  refine BitVec.eq_of_getLsbD_eq fun i hi => ?_
  have h256 : x / 256 = x / 2 ^ 8 := rfl
  simp only [BitVec.getLsbD_or, BitVec.getLsbD_ushiftRight, BitVec.getLsbD_shiftLeft,
    BitVec.getLsbD_ofNat, h256, Nat.testBit_div_two_pow]
  by_cases hlow : m + i < 8
  · simp [hi, hlow, show i < 8 - m by omega, Nat.add_comm]
  · simp [hi, hlow, show ¬ i < 8 - m by omega, show i - (8 - m) < 8 by omega,
      show i - (8 - m) + 8 = i + m by omega]

/-- Byte `i` of a right shift by `8q + m`, from the two bytes of the integer it straddles. -/
theorem getD_shrBytes (a : ByteVec) (q : Nat) {m i : Nat} (hm : m < 8) (hi : i < a.length) :
    (shrBytes a (8 * q + m)).getD i 0 =
      (BitVec.ofNat 8 (beInt a / 256 ^ (a.length - 1 - i + q)) >>> m) |||
        (BitVec.ofNat 8 (beInt a / 256 ^ (a.length - 1 - i + q + 1)) <<< (8 - m)) := by
  have hdiv : beInt a / 2 ^ (8 * q + m) / 256 ^ (a.length - 1 - i) =
      beInt a / 256 ^ (a.length - 1 - i + q) / 2 ^ m := by
    rw [Nat.div_div_eq_div_mul, Nat.div_div_eq_div_mul, pow_add, pow_add, pow_mul]
    congr 1
    ring
  rw [List.getD_eq_getElem?_getD, shrBytes, getElem?_encBytes _ _ i hi, Option.getD_some, hdiv,
    ofNat_div_two_pow _ hm, Nat.div_div_eq_div_mul, ← pow_succ]

/-- Settles O28, from the two bytes each byte of the result straddles: above the vector both are 0,
and for `i = q` the higher one is; for `m = 0` that one is shifted out. -/
theorem vshrByteByByte : Obligations.VshrByteByByte := by
  intro vd va q m s hm
  refine ⟨_, length_shrBytes _ _, fun i hq hi => ?_, fun i hq hi => ?_, exec_vshr vd va _ s⟩
  all_goals
    rw [length_shrBytes] at hi
    rw [getD_shrBytes _ q hm hi, ofNat_beInt_div, ofNat_beInt_div]
    generalize s.vval va = a at hi ⊢
  · rw [if_neg (by omega), if_neg (by omega)]
    simp
  · rw [if_pos (by omega), show a.length - 1 - (a.length - 1 - i + q) = i - q by omega]
    congr 1
    by_cases hleft : q + 1 ≤ i
    · rw [if_pos (by omega),
        show a.length - 1 - (a.length - 1 - i + q + 1) = i - q - 1 by omega]
      obtain rfl | hpos := Nat.eq_zero_or_pos m
      · simp
      · rw [if_pos ⟨hleft, hpos⟩]
    · rw [if_neg (by omega), if_neg (fun h => hleft h.1)]

/-- Two right shifts are one by the sum (R108). -/
theorem shrBytes_shrBytes (a : ByteVec) (m n : Nat) :
    shrBytes (shrBytes a m) n = shrBytes a (m + n) := by
  refine beInt_inj (by simp only [length_shrBytes]) ?_
  rw [beInt_shrBytes, beInt_shrBytes, beInt_shrBytes, Nat.div_div_eq_div_mul, ← pow_add]

/-- Settles O29: the second shift reads the first one's result and replaces it. -/
theorem shiftsCompose : Obligations.ShiftsCompose := by
  intro vd va m n s t ht
  have hlen : (shrBytes (s.vval va) m).length ≤ vcap :=
    (length_shrBytes _ m).trans_le (length_vval_le s va)
  rw [exec_vshr] at ht
  cases ht
  rw [exec_vshr, exec_vshr, vval_afterV hlen, if_pos rfl, shrBytes_shrBytes, afterV_afterV]

/-! Inverses (R108) -/

/-- XOR with the same vector twice restores the value. -/
theorem xorBytes_xorBytes_cancel {a b : ByteVec} (h : a.length = b.length) :
    xorBytes (xorBytes a b) b = a := by
  refine List.ext_getElem (by simp [h]) fun k _ _ => ?_
  simp [xorBytes]

/-- The front of a concatenation is its left part. -/
theorem subBytes_append_front {a : ByteVec} (b : ByteVec) (h : 0 < a.length) :
    subBytes (a ++ b) 0 (a.length - 1) = a := by
  rw [subBytes, List.drop_zero, Nat.sub_zero, Nat.sub_add_cancel h, List.take_left]

/-- Settles O30: the second command reads the first one's result from `V[vd]`. -/
theorem byteUnitInverses : Obligations.ByteUnitInverses := by
  intro vd va vb s t
  have ha := length_vval_le s va
  refine ⟨fun hne heq ht => ?_, fun hpos hfits ht => ?_⟩
  · have hlen : (xorBytes (s.vval va) (s.vval vb)).length = (s.vval vb).length := by
      rw [length_xorBytes, heq, Nat.min_self]
    have hcap := hlen.trans_le (length_vval_le s vb)
    rw [exec_vxor_of_length_eq heq] at ht
    cases ht
    refine ⟨_, exec_vxor_of_length_eq ?_, rfl, ?_⟩ <;>
      rw [vval_afterV hcap, vval_afterV hcap, if_pos rfl, if_neg hne]
    · exact hlen
    · rw [xorBytes_xorBytes_cancel heq, vval_afterV ha, if_pos rfl]
  · have hcap : (s.vval va ++ s.vval vb).length ≤ vcap := List.length_append.trans_le hfits
    rw [exec_vcat_of_fits hfits] at ht
    cases ht
    refine ⟨_, exec_vsub_of_inRange (Nat.zero_le _) ?_, rfl, ?_⟩ <;>
      rw [vval_afterV hcap, if_pos rfl]
    · rw [List.length_append]
      omega
    · rw [subBytes_append_front _ hpos, vval_afterV ha, if_pos rfl]

end Sys2Proof.Machine
end

section
/-! Proofs about 41_cipher_port.md: the port's contract (R121) for the reference cipher, and what
46_des_reference.md (R210 to R218) needs for it. -/

namespace Sys2Proof.Machine

/-! The initial and the final permutation undo each other (R210) -/

/-- The bit at place `p` of a selection, counted from 0 at the least significant end, is the input
bit the table's entry at place `p` from its end names. -/
theorem testBit_foldl_select (n x : Nat) (table : List Nat) {p : Nat} (h : p < table.length) :
    (table.foldl (fun acc i => 2 * acc + (x >>> (n - i)) % 2) 0).testBit p =
      x.testBit (n - table.reverse.getD p 0) := by
  induction table using List.reverseRecOn generalizing p with
  | nil => exact absurd h (Nat.not_lt_zero p)
  | append_singleton table i ih =>
    rw [List.foldl_append, List.foldl_cons, List.foldl_nil, List.reverse_append]
    obtain _ | p := p
    · simp [Nat.testBit_eq_decide_div_mod_eq, Nat.shiftRight_eq_div_pow]
    · rw [Nat.testBit_add_one, Nat.mul_add_div Nat.two_pos,
        Nat.div_eq_of_lt (Nat.mod_lt _ Nat.two_pos), Nat.add_zero, ih (by simpa using h)]
      simp

/-- One bit of a selection by a table with an entry for every output bit. -/
theorem getLsbD_desSelect {n m p : Nat} {table : List Nat} (x : BitVec n)
    (ht : table.length = m) (hp : p < m) :
    (desSelect m table x).getLsbD p = x.getLsbD (n - table.reverse.getD p 0) := by
  rw [desSelect, BitVec.getLsbD_ofNat, decide_eq_true hp, Bool.true_and,
    testBit_foldl_select n _ table (ht ▸ hp), BitVec.testBit_toNat]

/-- The table `u` names, at every place, the place where the table `t` has put that input bit. -/
def UndoesSelection (n : Nat) (u t : List Nat) : Prop :=
  ∀ p < n, n - u.reverse.getD p 0 < n ∧ n - t.reverse.getD (n - u.reverse.getD p 0) 0 = p

/-- Selecting by a table and then by one that undoes it restores the value. -/
theorem desSelect_desSelect_of_undoes {n : Nat} {t u : List Nat} (ht : t.length = n)
    (hu : u.length = n) (h : UndoesSelection n u t) (x : BitVec n) :
    desSelect n u (desSelect n t x) = x := by
  refine BitVec.eq_of_getLsbD_eq fun p hp => ?_
  obtain ⟨hlt, hback⟩ := h p hp
  rw [getLsbD_desSelect _ hu hp, getLsbD_desSelect _ ht hlt, hback]

theorem desFP_undoes_desIP : UndoesSelection 64 desFP desIP := by
  unfold UndoesSelection
  decide

theorem desIP_undoes_desFP : UndoesSelection 64 desIP desFP := by
  unfold UndoesSelection
  decide

theorem desFP_desIP (x : BitVec 64) : desSelect 64 desFP (desSelect 64 desIP x) = x :=
  desSelect_desSelect_of_undoes (by decide) (by decide) desFP_undoes_desIP x

theorem desIP_desFP (x : BitVec 64) : desSelect 64 desIP (desSelect 64 desFP x) = x :=
  desSelect_desSelect_of_undoes (by decide) (by decide) desIP_undoes_desFP x

/-! The rounds run backwards (R216) -/

@[simp] theorem desHalves_append (l r : BitVec 32) : desHalves (l ++ r) = (l, r) := by
  rw [desHalves, BitVec.extractLsb'_append_eq_left, BitVec.extractLsb'_append_eq_right]

@[simp] theorem append_desHalves (x : BitVec 64) : (desHalves x).1 ++ (desHalves x).2 = x :=
  (BitVec.extractLsb'_append_extractLsb'_eq_extractLsb' rfl).trans BitVec.extractLsb'_eq_self

theorem desRounds_append (ks ks' : List (BitVec 48)) (lr : BitVec 32 × BitVec 32) :
    desRounds (ks ++ ks') lr = desRounds ks' (desRounds ks lr) := by
  induction ks generalizing lr with
  | nil => rfl
  | cons k ks ih => exact ih _

/-- On exchanged halves a round undoes itself: the half the round function reads is the one the
round has kept. -/
theorem desRounds_singleton_swap (k : BitVec 48) (lr : BitVec 32 × BitVec 32) :
    desRounds [k] (desRounds [k] lr).swap = lr.swap := by
  simp [desRounds, Prod.swap]

/-- The rounds with the keys in reverse order, on the exchanged halves, give back the exchanged
input. -/
theorem desRounds_reverse_swap (ks : List (BitVec 48)) (lr : BitVec 32 × BitVec 32) :
    desRounds ks.reverse (desRounds ks lr).swap = lr.swap := by
  induction ks generalizing lr with
  | nil => rfl
  | cons k ks ih =>
    calc desRounds (k :: ks).reverse (desRounds (k :: ks) lr).swap
        = desRounds [k] (desRounds ks.reverse (desRounds ks (desRounds [k] lr)).swap) := by
          rw [List.reverse_cons, desRounds_append]
          rfl
      _ = desRounds [k] (desRounds [k] lr).swap := by rw [ih]
      _ = lr.swap := desRounds_singleton_swap k lr

/-- One block, and the same with the keys in reverse order. -/
theorem desBlock_reverse_desBlock (keys : List (BitVec 48)) (b : BitVec 64) :
    desBlock keys.reverse (desBlock keys b) = b := by
  have hrounds := desRounds_reverse_swap keys (desHalves (desSelect 64 desIP b))
  simp only [Prod.swap] at hrounds
  simp only [desBlock, desIP_desFP, desHalves_append, hrounds, append_desHalves, desFP_desIP]

theorem desDec_desEnc (k b : BitVec 64) : desDec k (desEnc k b) = b :=
  desBlock_reverse_desBlock (desRoundKeys k) b

theorem desEnc_desDec (k b : BitVec 64) : desEnc k (desDec k b) = b := by
  have h := desBlock_reverse_desBlock (desRoundKeys k).reverse b
  rwa [List.reverse_reverse] at h

/-! Triple DES and CBC (R217, R218) -/

/-- The three single decryptions meet the three encryptions from the outside in. -/
theorem tdesDec_tdesEnc (k1 k2 k3 b : BitVec 64) : tdesDec k1 k2 k3 (tdesEnc k1 k2 k3 b) = b := by
  rw [tdesDec, tdesEnc, desDec_desEnc, desEnc_desDec, desDec_desEnc]

/-- CBC decryption undoes CBC encryption when the block function is undone. -/
theorem cbcDec_cbcEnc {enc dec : BitVec 64 → BitVec 64} (h : ∀ b, dec (enc b) = b)
    (prev : BitVec 64) (ds : List (BitVec 64)) : cbcDec dec prev (cbcEnc enc prev ds) = ds := by
  induction ds generalizing prev with
  | nil => rfl
  | cons d ds ih => rw [cbcEnc, cbcDec, h, ih, BitVec.xor_assoc, BitVec.xor_self, BitVec.xor_zero]

/-! Blocks and their bytes (R218) -/

@[simp] theorem length_blockBytes (x : BitVec 64) : (blockBytes x).length = 8 :=
  length_encBytes 8 x.toNat

@[simp] theorem blockBits_blockBytes (x : BitVec 64) : blockBits (blockBytes x) = x := by
  have hlt : x.toNat < 256 ^ 8 := x.isLt
  rw [blockBits, blockBytes, beInt_encBytes, Nat.mod_eq_of_lt hlt, BitVec.ofNat_toNat,
    BitVec.setWidth_eq]

theorem blockBytes_blockBits {v : ByteVec} (h : v.length = 8) : blockBytes (blockBits v) = v := by
  have hlt : beInt v < 2 ^ 64 := (beInt_lt v).trans_eq (by rw [h]; rfl)
  rw [blockBytes, blockBits, BitVec.toNat_ofNat, Nat.mod_eq_of_lt hlt, ← h, encBytes_beInt]

/-- The first eight bytes are the first block. -/
theorem dataBlocks_append {v : ByteVec} (h : v.length = 8) (d : ByteVec) :
    dataBlocks (v ++ d) = blockBits v :: dataBlocks d := by
  have hcount : (v ++ d).length / 8 = d.length / 8 + 1 := by
    rw [List.length_append, h, Nat.add_div_left _ (by omega)]
  rw [dataBlocks, hcount, List.range_succ_eq_map, List.map_cons, List.map_map]
  congr 1
  · rw [Nat.mul_zero, List.drop_zero, ← h, List.take_left]
  · refine List.map_congr_left fun i _ => ?_
    rw [Function.comp_apply, Nat.succ_eq_add_one, Nat.mul_add_one, Nat.add_comm, ← List.drop_drop,
      ← h, List.drop_left, h]

theorem blocksData_cons (b : BitVec 64) (bs : List (BitVec 64)) :
    blocksData (b :: bs) = blockBytes b ++ blocksData bs := List.flatMap_cons

theorem dataBlocks_blocksData (bs : List (BitVec 64)) : dataBlocks (blocksData bs) = bs := by
  induction bs with
  | nil => rfl
  | cons b bs ih =>
    rw [blocksData_cons, dataBlocks_append (length_blockBytes b), blockBits_blockBytes, ih]

/-- Whole blocks of data lose no byte. -/
theorem blocksData_dataBlocks {d : ByteVec} (h : d.length % 8 = 0) :
    blocksData (dataBlocks d) = d := by
  obtain hlt | hge := Nat.lt_or_ge d.length 8
  · obtain rfl : d = [] := List.eq_nil_of_length_eq_zero (by omega)
    rfl
  · have hfirst : (d.take 8).length = 8 := by rw [List.length_take, Nat.min_eq_left hge]
    have hrest : (d.drop 8).length % 8 = 0 := by rw [List.length_drop]; omega
    calc blocksData (dataBlocks d)
        = blocksData (dataBlocks (d.take 8 ++ d.drop 8)) := by rw [List.take_append_drop]
      _ = d.take 8 ++ d.drop 8 := by
          rw [dataBlocks_append hfirst, blocksData_cons, blockBytes_blockBits hfirst,
            blocksData_dataBlocks hrest]
      _ = d := List.take_append_drop 8 d
termination_by d.length
decreasing_by rw [List.length_drop]; omega

/-! The port's contract (R121) -/

/-- The decryption request undoes the encryption request on whole blocks, for any key. -/
theorem refTdesCbcD_refTdesCbcE (k : ByteVec) {d : ByteVec} (h : d.length % 8 = 0) :
    refTdesCbcD k (refTdesCbcE k d) = d := by
  rw [refTdesCbcD, refTdesCbcE, dataBlocks_blocksData, cbcDec_cbcEnc (tdesDec_tdesEnc _ _ _),
    blocksData_dataBlocks h]

/-- Settles O49: the two CBC functions answer whole blocks, and DES, triple DES and CBC are each
undone by running backwards. -/
theorem referenceCipherIsLawful : Obligations.ReferenceCipherIsLawful where
  desE_length _ _ _ _ := length_blockBytes _
  tdesCbcE_length k d _ hd :=
    (length_refTdesCbcE k d).trans (Nat.mul_div_cancel' (Nat.dvd_of_mod_eq_zero hd))
  tdesCbcD_length k d _ hd :=
    (length_refTdesCbcD k d).trans (Nat.mul_div_cancel' (Nat.dvd_of_mod_eq_zero hd))
  tdesCbcD_tdesCbcE k _ _ hd := refTdesCbcD_refTdesCbcE k hd

end Sys2Proof.Machine
end

section
/-! Proofs about 42_key_derivation.md, first part: byte-vector expressions bit by bit, and the
equations behind GENIPEK (R141 to R144). -/

namespace Sys2Proof.Machine

/-! The integer of a vector, cut in two and bit by bit (00_scope.md R9, R10) -/

theorem beInt_append (a b : ByteVec) : beInt (a ++ b) = beInt a * 256 ^ b.length + beInt b := by
  induction b using List.reverseRecOn with
  | nil => simp
  | append_singleton b x ih =>
    rw [← List.append_assoc, beInt_concat, ih, beInt_concat, List.length_append,
      List.length_singleton]
    ring

/-- Dropping bytes on the left reduces the integer. -/
theorem beInt_drop (v : ByteVec) (i : Nat) :
    beInt (v.drop i) = beInt v % 256 ^ (v.length - i) := by
  have hlt := beInt_lt (v.drop i)
  rw [List.length_drop] at hlt
  conv_rhs => rw [← List.take_append_drop i v, beInt_append, List.length_append, List.length_take,
    List.length_drop]
  rw [show min i v.length + (v.length - i) - i = v.length - i by omega, Nat.mul_comm,
    Nat.mul_add_mod, Nat.mod_eq_of_lt hlt]

theorem testBit_beInt_cons (x : Byte) (v : ByteVec) (i : Nat) : (beInt (x :: v)).testBit i =
    if i < 8 * v.length then (beInt v).testBit i else x.getLsbD (i - 8 * v.length) := by
  have hpow : 256 ^ v.length = 2 ^ (8 * v.length) := (pow_mul 2 8 _).symm
  have hcons : beInt (x :: v) = 2 ^ (8 * v.length) * x.toNat + beInt v := by
    rw [← List.singleton_append, beInt_append, hpow, Nat.mul_comm]
    simp [beInt]
  rw [hcons, Nat.testBit_two_pow_mul_add _ (hpow ▸ beInt_lt v)]
  rfl

/-- A byte-by-byte combination that combines the bytes bit by bit combines the integers bit by
bit. -/
theorem testBit_beInt_zipWith {f : Byte → Byte → Byte} {g : Bool → Bool → Bool}
    (hf : ∀ x y i, (f x y).getLsbD i = g (x.getLsbD i) (y.getLsbD i)) {a b : ByteVec}
    (h : a.length = b.length) (i : Nat) :
    (beInt (List.zipWith f a b)).testBit i = g ((beInt a).testBit i) ((beInt b).testBit i) := by
  induction a generalizing b with
  | nil =>
    obtain rfl : b = [] := List.eq_nil_of_length_eq_zero h.symm
    simpa using hf 0 0 8
  | cons x a ih =>
    obtain _ | ⟨y, b⟩ := b
    · cases h
    · have htail : a.length = b.length := Nat.succ.inj h
      have hzip : (List.zipWith f a b).length = b.length := by
        rw [List.length_zipWith, htail, Nat.min_self]
      rw [List.zipWith_cons_cons, testBit_beInt_cons, testBit_beInt_cons, testBit_beInt_cons, hzip,
        htail, ih htail]
      split
      · rfl
      · exact hf x y _

theorem beInt_andBytes {a b : ByteVec} (h : a.length = b.length) :
    beInt (andBytes a b) = beInt a &&& beInt b :=
  Nat.eq_of_testBit_eq fun i => by
    rw [andBytes, testBit_beInt_zipWith (fun x y i => BitVec.getLsbD_and) h, Nat.testBit_and]

theorem beInt_orBytes {a b : ByteVec} (h : a.length = b.length) :
    beInt (orBytes a b) = beInt a ||| beInt b :=
  Nat.eq_of_testBit_eq fun i => by
    rw [orBytes, testBit_beInt_zipWith (fun x y i => BitVec.getLsbD_or) h, Nat.testBit_or]

/-- The bits below `k` zeroed. -/
theorem testBit_div_mul_two_pow (x k i : Nat) :
    (x / 2 ^ k * 2 ^ k).testBit i = (decide (k ≤ i) && x.testBit i) := by
  rw [Nat.testBit_mul_two_pow, Nat.testBit_div_two_pow]
  by_cases h : k ≤ i <;> simp [h, Nat.sub_add_cancel]

/-! The counter and the rest of the KSN (R141, R143 step 1) -/

theorem beInt_counterMask : beInt counterMask = 2 ^ 21 - 1 := by decide

/-- The counter is the KSN's integer modulo `2^21`. -/
theorem beInt_andBytes_counterMask {ksn : ByteVec} (h : ksn.length = 10) :
    beInt (andBytes ksn counterMask) = beInt ksn % 2 ^ 21 := by
  rw [beInt_andBytes (h.trans length_counterMask.symm), beInt_counterMask,
    Nat.and_two_pow_sub_one_eq_mod]

/-- The KSN with the transaction counter zeroed keeps the bits from 21 up. -/
theorem beInt_zeroCounter {ksn : ByteVec} (h : ksn.length = 10) :
    beInt (zeroCounter ksn) = beInt ksn / 2 ^ 21 * 2 ^ 21 := by
  have hzip : zeroCounter ksn = List.zipWith (fun x y => x &&& ~~~y) ksn counterMask := by
    rw [zeroCounter, andBytes, notBytes, List.zipWith_map_right]
  have hbit (x y : Byte) (i : Nat) :
      (x &&& ~~~y).getLsbD i = (x.getLsbD i && !y.getLsbD i) := by
    rw [BitVec.getLsbD_and, BitVec.getLsbD_not]
    by_cases hi : i < 8
    · simp [hi]
    · simp [BitVec.getLsbD_of_ge x i (Nat.le_of_not_lt hi)]
  refine Nat.eq_of_testBit_eq fun i => ?_
  rw [hzip, testBit_beInt_zipWith (g := fun p q => p && !q) hbit (h.trans length_counterMask.symm),
    beInt_counterMask, Nat.testBit_two_pow_sub_one, testBit_div_mul_two_pow, Bool.and_comm]
  by_cases hi : i < 21
  · simp [hi]
  · simp [hi, Nat.le_of_not_lt hi]

theorem length_zeroCounter {ksn : ByteVec} (h : ksn.length = 10) :
    (zeroCounter ksn).length = 10 := by simp [zeroCounter, h]

/-- The first 8 bytes of the counter-zeroed KSN, written from the KSN's bytes (R143 step 2). -/
theorem subBytes_zeroCounter_eq_coreOf {ksn : ByteVec} (h : ksn.length = 10) :
    subBytes (zeroCounter ksn) 0 7 = coreOf ksn := by
  have hmask : (notBytes counterMask).take 8 = List.replicate 7 0xFF ++ [0xE0] := by decide
  have htake : ksn.take 8 = ksn.take 7 ++ [ksn.getD 7 0] := by
    rw [List.getD_eq_getElem _ _ (by omega), List.take_append_getElem (by omega)]
  have hkeep : List.zipWith (· &&& ·) (ksn.take 7) (List.replicate 7 (0xFF : Byte)) = ksn.take 7 :=
    List.ext_getElem (by simp [h]) fun k _ _ => by
      rw [List.getElem_zipWith, List.getElem_replicate]
      exact BitVec.and_allOnes
  rw [subBytes, zeroCounter, andBytes, List.drop_zero, List.take_zipWith, hmask, htake,
    List.zipWith_append (by simp [h]), hkeep]
  rfl

theorem length_coreOf {ksn : ByteVec} (h : ksn.length = 10) : (coreOf ksn).length = 8 := by
  simp [coreOf, h]

/-! The key's variant and its 24-byte form (R142, 41_cipher_port.md R125) -/

@[simp] theorem length_variantOf (key : ByteVec) : (variantOf key).length = key.length := by
  simp [variantOf]

/-- A mask that has the pattern's bytes makes the variant. -/
theorem xorBytes_eq_variantOf {key mask : ByteVec} (h : key.length = mask.length)
    (hmask : ∀ i < mask.length, mask.getD i 0 = if i % 8 < 4 then 0xC0 else 0) :
    xorBytes key mask = variantOf key := by
  refine List.ext_getElem (by simp [h]) fun i hi _ => ?_
  have hlt : i < mask.length := by
    rw [length_xorBytes] at hi
    omega
  have hbyte := hmask i hlt
  rw [List.getD_eq_getElem _ _ hlt] at hbyte
  simp only [xorBytes, variantOf, List.getElem_zipWith, List.getElem_mapIdx, hbyte]
  split
  · rfl
  · exact BitVec.xor_zero

theorem xorBytes_variantMask {key : ByteVec} (h : key.length = 16) :
    xorBytes key variantMask = variantOf key :=
  xorBytes_eq_variantOf (h.trans length_variantMask.symm) (by decide)

theorem xorBytes_bdkMask {bdk : ByteVec} (h : bdk.length = 16 ∨ bdk.length = 24) :
    xorBytes bdk (bdkMask bdk) = variantOf bdk := by
  unfold bdkMask
  obtain h16 | h24 := h
  · rw [if_pos h16, xorBytes_variantMask h16]
  · rw [if_neg (by omega)]
    exact xorBytes_eq_variantOf (h24.trans length_variantMask24.symm) (by decide)

/-- The pattern starts again after 8 bytes. -/
theorem variantOf_append {a : ByteVec} (h : a.length % 8 = 0) (b : ByteVec) :
    variantOf (a ++ b) = variantOf a ++ variantOf b := by
  have hshift (i : Nat) : (i + a.length) % 8 = i % 8 := by omega
  simp only [variantOf, List.mapIdx_append, hshift]

theorem expandKey_eq_key24Of {key : ByteVec} (h : key.length = 16 ∨ key.length = 24) :
    expandKey key = key24Of key := by
  unfold expandKey key24Of
  obtain h16 | h24 := h
  · rw [if_pos h16, show 24 = key.length + 8 by omega, List.take_length_add_append]
  · rw [if_neg (by omega), ← h24, List.take_left]

/-- `K1 ‖ K2` is expanded to `K1 ‖ K2 ‖ K1`, which is its own 24-byte form. -/
theorem key24Of_doubled {k1 k2 : ByteVec} (h1 : k1.length = 8) (h2 : k2.length = 8) :
    key24Of (k1 ++ k2 ++ k1) = key24Of (k1 ++ k2) := by
  have h16 : (k1 ++ k2).length = 16 := by simp [h1, h2]
  have h24 : (k1 ++ k2 ++ k1).length = 24 := by simp [h1, h2]
  calc key24Of (k1 ++ k2 ++ k1)
      = k1 ++ k2 ++ k1 := by rw [key24Of, ← h24, List.take_left]
    _ = expandKey (k1 ++ k2) := by
        rw [expandKey, if_pos h16, List.append_assoc k1 k2 k1, ← h1, List.append_assoc,
          List.take_left]
    _ = key24Of (k1 ++ k2) := expandKey_eq_key24Of (.inl h16)

/-! `generateIPEK` by its tests (R143, R145) -/

/-- A triple-DES encryption with a key and data of admitted lengths issues its request (R122). -/
theorem tripleDesEncrypt_of_lengths (c : Config) {data key : ByteVec} (e : Engine)
    (hkey : key.length = 16 ∨ key.length = 24) (hdata : data.length % 8 = 0) :
    tripleDesEncrypt c data key e =
      portRespond c (c.cipher.tdesCbcE (key24Of key) data) (countTdes e) := by
  rw [tripleDesEncrypt, if_neg (by omega), if_neg (not_not.mpr hdata), expandKey_eq_key24Of hkey]

/-- With the right lengths both requests are issued, for the two halves of `ipekOf`. -/
theorem generateIpek_of_lengths (c : Config) {ksn bdk : ByteVec} (e : Engine)
    (hksn : ksn.length = 10) (hbdk : bdk.length = 16 ∨ bdk.length = 24) :
    generateIpek c ksn bdk e =
      (portRespond c (c.cipher.tdesCbcE (key24Of bdk) (coreOf ksn)) (countTdes e)).andThen
        fun left e1 =>
      (portRespond c (c.cipher.tdesCbcE (key24Of (variantOf bdk)) (coreOf ksn))
        (countTdes e1)).andThen fun right e2 => .ok (left ++ right) e2 := by
  have hcore : (coreOf ksn).length % 8 = 0 := by rw [length_coreOf hksn]
  have hvar : (variantOf bdk).length = 16 ∨ (variantOf bdk).length = 24 := by
    rwa [length_variantOf]
  simp only [generateIpek, if_neg (not_not.mpr hksn), subBytes_zeroCounter_eq_coreOf hksn,
    xorBytes_bdkMask hbdk, tripleDesEncrypt_of_lengths c _ hbdk hcore,
    tripleDesEncrypt_of_lengths c _ hvar hcore]

theorem generateIpek_of_ksn_length (c : Config) {ksn : ByteVec} (bdk : ByteVec) (e : Engine)
    (h : ksn.length ≠ 10) : generateIpek c ksn bdk e = .raise .lengthMismatch e := if_pos h

/-- The first request's key test is the first to fail (R145). -/
theorem generateIpek_of_bdk_length (c : Config) {ksn bdk : ByteVec} (e : Engine)
    (hksn : ksn.length = 10) (h16 : bdk.length ≠ 16) (h24 : bdk.length ≠ 24) :
    generateIpek c ksn bdk e = .raise .invalidKeyLength e := by
  have hkey (data : ByteVec) : tripleDesEncrypt c data bdk e = .raise .invalidKeyLength e :=
    if_pos ⟨h16, h24⟩
  simp only [generateIpek, if_neg (not_not.mpr hksn), hkey, andThen_raise]

/-- Settles O32: the KSN's part in the result is its counter-zeroed form, which the bits from 21 up
determine. -/
theorem ipekIgnoresTheCounter : Obligations.IpekIgnoresTheCounter := by
  intro c ksn ksn' bdk e h h' hhigh
  have hzero : zeroCounter ksn = zeroCounter ksn' := by
    refine beInt_inj ((length_zeroCounter h).trans (length_zeroCounter h').symm) ?_
    rw [beInt_zeroCounter h, beInt_zeroCounter h', hhigh]
  rw [generateIpek, generateIpek, h, h', hzero]

/-- Settles O33: both keys, and both variants, have the same 24-byte form. -/
theorem ipekOfDoubledKey : Obligations.IpekOfDoubledKey := by
  intro c ksn k1 k2 e h1 h2
  by_cases hksn : ksn.length = 10
  · have hvar : key24Of (variantOf (k1 ++ k2 ++ k1)) = key24Of (variantOf (k1 ++ k2)) := by
      rw [variantOf_append (by simp [h1, h2]), variantOf_append (by simp [h1])]
      exact key24Of_doubled (by simpa using h1) (by simpa using h2)
    rw [generateIpek_of_lengths c e hksn (.inr (by simp [h1, h2])),
      generateIpek_of_lengths c e hksn (.inl (by simp [h1, h2])), key24Of_doubled h1 h2, hvar]
  · rw [generateIpek_of_ksn_length c _ e hksn, generateIpek_of_ksn_length c _ e hksn]

end Sys2Proof.Machine
end

section
/-! Proofs about 42_key_derivation.md, second part: the requests a computation of the engine issues
(41_cipher_port.md R127 to R129), and GENIPEK (R143 to R145). -/

namespace Sys2Proof.Machine

/-! Requests in sequence -/

/-- The two kinds of request the counters tell apart (10_state.md R30). -/
inductive Request
  | des
  | tdes
deriving DecidableEq

/-- Count a request of this kind (41_cipher_port.md R127). -/
def Request.count : Request → Engine → Engine
  | .des => countDes
  | .tdes => countTdes

/-- Issue these requests in turn and complete with `a`; a request answered `fail` ends the
computation (41_cipher_port.md R128, R129). -/
def issue {α : Type} (c : Config) (a : α) : List Request → Engine → Res α
  | [], e => .ok a e
  | k :: ks, e => (portRespond c [] (k.count e)).andThen fun _ e1 => issue c a ks e1

/-- The computation `x` issues the requests `ks` and nothing else can end it early; completed, it has
the value `a` and working registers with `P`. -/
def Res.Issues {α : Type} (x : Res α) (c : Config) (ks : List Request) (e : Engine) (a : α)
    (P : Work → Prop) : Prop :=
  x.Agree (fun w _ => P w) (issue c a ks e)

section Issues

variable {α β : Type} {c : Config} {e e' : Engine} {a : α} {b : β} {ks ks' : List Request}
  {P P' : Work → Prop}

/-- Requests in turn are some of them, then the others; the first value is not used. -/
theorem issue_andThen (c : Config) (a : α) (b : β) (ks ks' : List Request) (e : Engine) :
    (issue c a ks e).andThen (fun _ e1 => issue c b ks' e1) = issue c b (ks ++ ks') e := by
  induction ks generalizing e with
  | nil => rfl
  | cons k ks ih =>
    simp only [List.cons_append, issue, ← ih]
    cases portRespond c [] (k.count e) <;> rfl

theorem eq_of_issue_eq_ok {a' : α} (h : issue c a ks e = .ok a' e') : a' = a := by
  induction ks generalizing e with
  | nil => exact (Res.ok.inj h).1.symm
  | cons k ks ih =>
    obtain ⟨_, e1, -, hrest⟩ := andThen_eq_ok_iff.mp h
    exact ih hrest

theorem issues_ok (hc : e.clear = e'.clear) (hw : P e.work) :
    (Res.ok a e).Issues c [] e' a P := agree_ok a hc hw

/-- One computation after another issues the requests of the first, then those of the second. -/
theorem Res.Issues.andThen {x : Res α} {f : α → Engine → Res β} (hx : x.Issues c ks e a P)
    (hf : ∀ e1 e1', e1.clear = e1'.clear → P e1.work → (f a e1).Issues c ks' e1' b P') :
    (x.andThen f).Issues c (ks ++ ks') e b P' := by
  rw [Res.Issues, ← issue_andThen c a b]
  rw [Res.Issues] at hx
  generalize hy : issue c a ks e = y at hx ⊢
  cases x with
  | ok a1 e1 =>
    cases y with
    | ok a2 e1' =>
      obtain ⟨rfl, hc, hw⟩ := hx
      obtain rfl := eq_of_issue_eq_ok hy
      exact hf e1 e1' hc hw
    | raise err' e1' => exact hx.elim
  | raise err e1 =>
    cases y with
    | ok a2 e1' => exact hx.elim
    | raise err' e1' => exact hx

/-! One request (41_cipher_port.md R127, R128) -/

@[simp] theorem count_work (k : Request) (e : Engine) : (k.count e).work = e.work := by
  cases k <;> rfl

@[simp] theorem count_port (k : Request) (e : Engine) : (k.count e).port = e.port := by
  cases k <;> rfl

theorem clear_count (k : Request) (hc : e.clear = e'.clear) :
    (k.count e).clear = (k.count e').clear := by
  cases k with
  | des => exact clear_countDes hc
  | tdes => exact clear_countTdes hc

/-- Whether a request fails does not depend on the value it is answered with. -/
theorem portRespond_eq_andThen (c : Config) (r r' : ByteVec) (e : Engine) :
    portRespond c r e = (portRespond c r' e).andThen fun _ e1 => .ok r e1 := by
  unfold portRespond
  split
  · split <;> rfl
  · rfl

theorem issues_portRespond (k : Request) (r : ByteVec) (hc : e.clear = e'.clear)
    (hw : P e.work) : (portRespond c r (k.count e)).Issues c [k] e' r P := by
  have hone : issue c r [k] e' = portRespond c r (k.count e') :=
    (portRespond_eq_andThen c r [] _).symm
  rw [Res.Issues, hone]
  exact agree_portRespond c r (clear_count k hc) ((count_work k e).symm ▸ hw)

/-- A single-DES encryption of one block (R124). -/
theorem issues_singleDesEncrypt {block key : ByteVec} (hkey : key.length = 8)
    (hblock : block.length = 8) (hc : e.clear = e'.clear) (hw : P e.work) :
    (singleDesEncrypt c block key e).Issues c [.des] e' (c.cipher.desE key block) P := by
  rw [singleDesEncrypt, if_neg (not_not.mpr hkey), if_neg (not_not.mpr hblock)]
  exact issues_portRespond .des _ hc hw

end Issues

/-! What the machine's environment makes of requests (41_cipher_port.md R128) -/

section Environment

variable {e : Engine} {ks : List Request} {n m : Nat}

/-- The engine after one request: counted, with one answer of the environment used. -/
def Request.spend (k : Request) (e : Engine) : Engine := { k.count e with port := e.port.drop 1 }

@[simp] theorem spend_port (k : Request) (e : Engine) : (k.spend e).port = e.port.drop 1 := rfl

theorem ranEngine_spend (k : Request) (ks : List Request) (e : Engine) :
    ranEngine (k.spend e) (ks.count .des) (ks.count .tdes) =
      ranEngine e ((k :: ks).count .des) ((k :: ks).count .tdes) := by
  have hword (x : Word) (j : Nat) :
      x + 1#32 + BitVec.ofNat 32 j = x + BitVec.ofNat 32 (j + 1) := by
    rw [BitVec.add_assoc, BitVec.add_comm 1#32, BitVec.ofNat_add]
  cases k with
  | des => simp [ranEngine, Request.spend, Request.count, hword, Nat.add_right_comm]
  | tdes => simp [ranEngine, Request.spend, Request.count, hword, Nat.add_assoc]

theorem answered_succ_iff (k : Request) :
    Answered (n + 1) e ↔ Answered 1 e ∧ Answered n (k.spend e) := by
  cases h : e.port <;> simp [Answered, h]

theorem failsAfter_succ_iff (k : Request) :
    FailsAfter (n + 1) e ↔ Answered 1 e ∧ FailsAfter n (k.spend e) := by
  cases h : e.port <;> simp [FailsAfter, Answered, h, and_assoc]

theorem portRespond_count_of_answered (k : Request) (r : ByteVec) (h : Answered 1 e) :
    portRespond dke r (k.count e) = .ok r (k.spend e) := by
  have hport : Answered 1 (k.count e) := by rwa [Answered, count_port]
  rw [portRespond_answered r _ hport, count_port, Request.spend]

theorem portRespond_count_of_fails (k : Request) (r : ByteVec) (h : FailsAfter 0 e) :
    portRespond dke r (k.count e) = .raise .cipherFailure (k.spend e) := by
  have hport : FailsAfter 0 (k.count e) := by rwa [FailsAfter, Answered, count_port]
  rw [portRespond_failed r _ hport, count_port, Request.spend]

/-- Requests that are all answered complete. -/
theorem issue_of_answered {α : Type} (a : α) (h : Answered ks.length e) :
    ∃ e1, issue dke a ks e = .ok a e1 ∧
      e1.clear = ranEngine e (ks.count .des) (ks.count .tdes) := by
  induction ks generalizing e with
  | nil => exact ⟨e, rfl, (ranEngine_zero e).symm⟩
  | cons k ks ih =>
    obtain ⟨hfirst, hrest⟩ := (answered_succ_iff k).mp h
    obtain ⟨e1, hissue, hran⟩ := ih hrest
    refine ⟨e1, ?_, hran.trans (ranEngine_spend k ks e)⟩
    rw [issue, portRespond_count_of_answered k [] hfirst, andThen_ok, hissue]

/-- A failing request is the last one issued. -/
theorem issue_of_fails {α : Type} (a : α) (hm : m < ks.length) (h : FailsAfter m e) :
    ∃ e1, issue dke a ks e = .raise .cipherFailure e1 ∧
      e1.clear = ranEngine e ((ks.take (m + 1)).count .des) ((ks.take (m + 1)).count .tdes) := by
  induction ks generalizing e m with
  | nil => exact absurd hm (Nat.not_lt_zero m)
  | cons k ks ih =>
    obtain _ | m := m
    · refine ⟨k.spend e, ?_, (ranEngine_zero _).symm.trans (ranEngine_spend k [] e)⟩
      rw [issue, portRespond_count_of_fails k [] h, andThen_raise]
    · obtain ⟨hfirst, hrest⟩ := (failsAfter_succ_iff k).mp h
      obtain ⟨e1, hissue, hran⟩ := ih (Nat.lt_of_succ_lt_succ hm) hrest
      refine ⟨e1, ?_, hran.trans (ranEngine_spend k _ e)⟩
      rw [issue, portRespond_count_of_answered k [] hfirst, andThen_ok, hissue]

end Environment

/-! The end of a command whose function issues requests (R144, R147) -/

section Commands

variable {s : State} {x : Res ByteVec} {r : ByteVec} {ks : List Request} {m : Nat} {P : Work → Prop}

/-- With all its requests answered the command writes the value, all requests counted. -/
theorem finishV_of_answered (vd : VIdx) (hx : x.Issues dke ks s.eng r P)
    (h : Answered ks.length s.eng) :
    finishV vd s x = afterV s vd r (ks.count .des) (ks.count .tdes) := by
  obtain ⟨e1, hissue, hran⟩ := issue_of_answered r h
  rw [Res.Issues, hissue] at hx
  cases x with
  | ok r' e =>
    obtain ⟨rfl, hc, -⟩ := hx
    exact finishV_ok_eq_afterV vd s r' (hc.trans hran)
  | raise err e => exact hx.elim

/-- With a request that fails the command aborts with 5, the requests up to that one counted. -/
theorem finishV_of_fails (vd : VIdx) (hx : x.Issues dke ks s.eng r P) (hm : m < ks.length)
    (h : FailsAfter m s.eng) : finishV vd s x =
      afterAbort s 5 ((ks.take (m + 1)).count .des) ((ks.take (m + 1)).count .tdes) := by
  obtain ⟨e1, hissue, hran⟩ := issue_of_fails r hm h
  rw [Res.Issues, hissue] at hx
  cases x with
  | ok r' e => exact hx.elim
  | raise err e =>
    obtain ⟨rfl, hc⟩ := hx
    exact finishV_raise_eq_afterAbort vd s _ (hc.trans hran)

end Commands

/-! GENIPEK (R143 to R145) -/

/-- With the right lengths `generateIPEK` issues two triple-DES requests and writes no working
register. -/
theorem issues_generateIpek {c : Config} {ksn bdk : ByteVec} {e e' : Engine} {P : Work → Prop}
    (hksn : ksn.length = 10) (hbdk : bdk.length = 16 ∨ bdk.length = 24) (hc : e.clear = e'.clear)
    (hw : P e.work) :
    (generateIpek c ksn bdk e).Issues c [.tdes, .tdes] e' (ipekOf c.cipher ksn bdk) P := by
  rw [generateIpek_of_lengths c e hksn hbdk]
  exact (issues_portRespond .tdes _ hc hw).andThen fun _ _ hc1 hw1 =>
    (issues_portRespond .tdes _ hc1 hw1).andThen fun _ _ hc2 hw2 => issues_ok hc2 hw2

/-- Settles O31, by the two length tests and the two requests. -/
theorem genipekResult : Obligations.GenipekResult := by
  intro vd va vb s
  refine ⟨opIs_of_fieldsSpec rfl, fun hksn => ?_, fun hksn h16 h24 => ?_, fun hksn hbdk => ?_⟩
  · exact congrArg Host.Outcome.next (formVVV_raise (generateIpek_of_ksn_length dke _ _ hksn))
  · exact congrArg Host.Outcome.next
      (formVVV_raise (generateIpek_of_bdk_length dke _ hksn h16 h24))
  · have hissues : (generateIpek dke (s.vval va) (s.vval vb) s.eng).Issues dke [.tdes, .tdes] s.eng
        (ipekOf dke.cipher (s.vval va) (s.vval vb)) (fun _ => True) :=
      issues_generateIpek hksn hbdk rfl trivial
    exact ⟨fun h => congrArg Host.Outcome.next (finishV_of_answered vd hissues h),
      fun h => congrArg Host.Outcome.next (finishV_of_fails vd hissues (by decide) h),
      fun h => congrArg Host.Outcome.next (finishV_of_fails vd hissues (by decide) h)⟩

end Sys2Proof.Machine
end

section
/-! Proofs about 42_key_derivation.md, third part: the derivation loop (R146) bit by bit, and DERIVE
(R147 to R150). The loop's passes are numbered by the counter bits still to come: with `k` of them
to come, `SR` holds bit `k - 1`, and nothing once `k` is 0. -/

namespace Sys2Proof.Machine

/-! What the loop reads (R146 steps 1, 2 and 4) -/

/-- The last 8 bytes of a KSN are its integer modulo `2^64`. -/
theorem subBytes_two_nine {v : ByteVec} (h : v.length = 10) :
    subBytes v 2 9 = encBytes 8 (beInt v) := by
  have hlen : (v.drop 2).length = 8 := by rw [List.length_drop, h]
  rw [subBytes, List.take_of_length_le hlen.le]
  refine beInt_inj (hlen.trans (length_encBytes 8 _).symm) ?_
  rw [beInt_drop, h, beInt_encBytes]

/-- An 8-byte register holds zeros exactly when its integer is 0. -/
theorem eq_fillBytes_zero_iff {v : ByteVec} (h : v.length = 8) : v = fillBytes 8 0 ↔ beInt v = 0 :=
  ⟨fun hv => hv ▸ (by decide), beInt_inj (b := fillBytes 8 0) h⟩

/-- `SR` while the low `k` bits of the counter are still to come. -/
def srBelow (k : Nat) : ByteVec := encBytes 8 (2 ^ k / 2)

@[simp] theorem length_srBelow (k : Nat) : (srBelow k).length = 8 := length_encBytes 8 _

theorem srInit_eq_srBelow : srInit = srBelow 21 := by decide

theorem beInt_srBelow_succ {k : Nat} (hk : k < 21) : beInt (srBelow (k + 1)) = 2 ^ k := by
  have hlt : 2 ^ k < 2 ^ 64 := Nat.pow_lt_pow_right (by decide) (by omega)
  rw [srBelow, beInt_encBytes, Nat.pow_succ, Nat.mul_div_cancel _ Nat.two_pos]
  exact Nat.mod_eq_of_lt hlt

theorem shrBytes_srBelow_succ {k : Nat} (hk : k < 21) :
    shrBytes (srBelow (k + 1)) 1 = srBelow k := by
  have hlt : 2 ^ k / 2 < 2 ^ 64 :=
    (Nat.div_le_self _ 2).trans_lt (Nat.pow_lt_pow_right (by decide) (by omega))
  refine beInt_inj (by rw [length_shrBytes, length_srBelow, length_srBelow]) ?_
  rw [beInt_shrBytes, beInt_srBelow_succ hk, srBelow, beInt_encBytes]
  exact (Nat.mod_eq_of_lt hlt).symm

/-- The loop of a KSN with integer `x` has the low `k` counter bits still to come. -/
structure BitsToCome (x k : Nat) (w : Work) : Prop where
  r3 : w.r3 = encBytes 8 (x % 2 ^ 21)
  sr : w.sr = srBelow k

/-- The loop starts with all 21 bits to come. -/
theorem bitsToCome_start {ksn : ByteVec} {w : Work} (h : ksn.length = 10)
    (hr3 : w.r3 = subBytes (andBytes ksn counterMask) 2 9) (hsr : w.sr = srInit) :
    BitsToCome (beInt ksn) 21 w := by
  refine ⟨?_, hsr.trans srInit_eq_srBelow⟩
  rw [hr3, subBytes_two_nine (by simp [h]), beInt_andBytes_counterMask h]

/-! The passes (R146 step 4) -/

section Passes

variable {c : Config} {x k n : Nat} {e : Engine}

/-- A pass finds nothing under the mask exactly when its counter bit is 0. -/
theorem andBytes_sr_r3_eq_iff (hk : k < 21) (h : BitsToCome x (k + 1) e.work) :
    andBytes e.work.sr e.work.r3 = fillBytes 8 0 ↔ x.testBit k = false := by
  have hlen : (srBelow (k + 1)).length = (encBytes 8 (x % 2 ^ 21)).length := by
    rw [length_srBelow, length_encBytes]
  have hmod : x % 2 ^ 21 % 256 ^ 8 = x % 2 ^ 21 :=
    Nat.mod_eq_of_lt ((Nat.mod_lt x (by decide)).trans (by decide))
  have hint : beInt (andBytes (srBelow (k + 1)) (encBytes 8 (x % 2 ^ 21))) =
      2 ^ k * (x.testBit k).toNat := by
    rw [beInt_andBytes hlen, beInt_srBelow_succ hk, beInt_encBytes, hmod, Nat.two_pow_and,
      Nat.testBit_mod_two_pow, decide_eq_true hk, Bool.true_and]
  have hand : (andBytes (srBelow (k + 1)) (encBytes 8 (x % 2 ^ 21))).length = 8 := by
    rw [length_andBytes, hlen, length_encBytes, Nat.min_self]
  rw [h.r3, h.sr, eq_fillBytes_zero_iff hand, hint]
  simp

theorem derivePass_of_unset (hk : k < 21) (h : BitsToCome x (k + 1) e.work)
    (hbit : x.testBit k = false) : derivePass c e = .ok () (shiftMask e) :=
  if_pos ((andBytes_sr_r3_eq_iff hk h).mpr hbit)

theorem derivePass_of_set (hk : k < 21) (h : BitsToCome x (k + 1) e.work)
    (hbit : x.testBit k = true) :
    derivePass c e = (keyUpdate c e).andThen fun _ e1 => .ok () (shiftMask e1) :=
  if_neg fun h0 => Bool.false_ne_true
    (((andBytes_sr_r3_eq_iff hk h).mp h0).symm.trans hbit)

/-- After a pass that has kept `R3` and `SR` the shift leaves one bit less to come. -/
theorem bitsToCome_shiftMask (hk : k < 21) (h : BitsToCome x (k + 1) e.work) :
    BitsToCome x k (shiftMask e).work :=
  ⟨h.r3, by rw [shiftMask_work_sr, h.sr, shrBytes_srBelow_succ hk]⟩

theorem deriveLoop_of_none_to_come (h : BitsToCome x 0 e.work) : deriveLoop c n e = .ok () e := by
  cases n with
  | zero => rfl
  | succ n => exact if_pos (h.sr.trans (by decide))

theorem deriveLoop_of_bits_to_come (hk : k < 21) (h : BitsToCome x (k + 1) e.work) :
    deriveLoop c (n + 1) e = (derivePass c e).andThen fun _ e1 => deriveLoop c n e1 := by
  refine if_neg fun h0 => ?_
  rw [h.sr, eq_fillBytes_zero_iff (length_srBelow _), beInt_srBelow_succ hk] at h0
  exact (Nat.two_pow_pos k).ne' h0

end Passes

/-! The weight of the counter (R149) -/

/-- The weight counted from the top: bit `k`, then the bits below it. -/
theorem hammingWeight_succ (k x : Nat) :
    hammingWeight (k + 1) x = (x.testBit k).toNat + hammingWeight k x := by
  induction k generalizing x with
  | zero =>
    change x % 2 + 0 = (x.testBit 0).toNat + 0
    rw [Nat.testBit_zero]
    obtain h | h := Nat.mod_two_eq_zero_or_one x <;> rw [h] <;> rfl
  | succ k ih =>
    rw [hammingWeight, ih, hammingWeight, Nat.testBit_add_one]
    omega

theorem hammingWeight_le (k x : Nat) : hammingWeight k x ≤ k := by
  induction k generalizing x with
  | zero => exact Nat.le_refl 0
  | succ k ih =>
    have hrest := ih (x / 2)
    rw [hammingWeight]
    omega

/-! A derivation with counter 0 (R150) -/

/-- With no counter bit set the loop changes neither the key nor anything outside the working
registers. -/
theorem deriveLoop_of_no_bits (c : Config) {x k n : Nat} {e : Engine} (hx : x % 2 ^ 21 = 0)
    (hk : k ≤ 21) (hn : k ≤ n) (h : BitsToCome x k e.work) :
    ∃ e1, deriveLoop c n e = .ok () e1 ∧ e1.clear = e.clear ∧ e1.work.curkey = e.work.curkey := by
  induction k generalizing n e with
  | zero => exact ⟨e, deriveLoop_of_none_to_come h, rfl, rfl⟩
  | succ k ih =>
    obtain ⟨n, rfl⟩ := Nat.exists_eq_add_of_le' hn
    have hbit : x.testBit k = false := by
      have hlow : (x % 2 ^ 21).testBit k = x.testBit k := by
        rw [Nat.testBit_mod_two_pow, decide_eq_true (by omega), Bool.true_and]
      rw [← hlow, hx, Nat.zero_testBit]
    obtain ⟨e1, hloop, hclear, hkey⟩ :=
      ih (n := n + k) (by omega) (by omega) (bitsToCome_shiftMask (by omega) h)
    refine ⟨e1, ?_, hclear, hkey⟩
    rw [← Nat.add_assoc, deriveLoop_of_bits_to_come (by omega) h,
      derivePass_of_unset (by omega) h hbit, andThen_ok, hloop]

/-- Results that agree outside the working registers end a command alike. -/
theorem finishV_congr (vd : VIdx) (s : State) {x y : Res ByteVec} (h : x.Agree AnyWork y) :
    finishV vd s x = finishV vd s y := by
  cases x with
  | ok a e =>
    cases y with
    | ok b e' =>
      obtain ⟨rfl, hc, -⟩ := h
      simp [complete, State.writeV, State.setVreg, hc]
    | raise err' e' => exact h.elim
  | raise err e =>
    cases y with
    | ok b e' => exact h.elim
    | raise err' e' =>
      obtain ⟨rfl, hc⟩ := h
      simp [abort, hc]

/-- A derivation with counter 0 agrees with the initial key generation, in its failures too. -/
theorem agree_deriveKey_generateIpek (c : Config) {ksn : ByteVec} (bdk : ByteVec) (e : Engine)
    (hx : beInt ksn % 2 ^ 21 = 0) :
    (deriveKey c ksn bdk e).Agree AnyWork (generateIpek c ksn bdk e) := by
  by_cases hksn : ksn.length = 10
  · have hright : generateIpek c ksn bdk e =
        (generateIpek c ksn bdk e).andThen fun ipek e1 => .ok ipek e1 := by
      cases generateIpek c ksn bdk e <;> rfl
    rw [deriveKey, if_neg (not_not.mpr hksn), hright]
    refine Res.Agree.andThen
      (Q := fun w _ => w.r3 = subBytes (andBytes ksn counterMask) 2 9)
      (agree_generateIpek c ksn bdk rfl rfl) fun ipek e1 e1' hc hr3 => ?_
    obtain ⟨e2, hloop, hclear, hkey⟩ := deriveLoop_of_no_bits c hx (Nat.le_refl 21) (n := 64)
      (by decide) (e := { e1 with work := { e1.work with curkey := ipek, sr := srInit } })
      (bitsToCome_start hksn hr3 rfl)
    rw [hloop, andThen_ok, hkey]
    exact agree_ok ipek (hclear.trans hc) trivial
  · rw [deriveKey, if_pos hksn, generateIpek_of_ksn_length c bdk e hksn]
    exact agree_raise _ rfl

/-- Settles O36: with no counter bit set no pass updates the key. -/
theorem deriveAtCounterZeroIsGenipek : Obligations.DeriveAtCounterZeroIsGenipek :=
  fun vd _ vb s hx => congrArg Host.Outcome.next
    (finishV_congr vd s (agree_deriveKey_generateIpek dke (s.vval vb) s.eng hx))

/-! The requests of a completed derivation (R149) -/

section Completed

variable {c : Config} {e e' : Engine} {u : Unit}

/-- A completed single-DES call followed by a move between working registers. -/
theorem desThenMove_ok {block key : ByteVec} {g : ByteVec → Work → Work}
    (h : (singleDesEncrypt c block key e).andThen
      (fun enc e1 => .ok () { e1 with work := g enc e1.work }) = .ok u e') :
    e'.sdescnt = e.sdescnt + 1 ∧ e'.tdescnt = e.tdescnt ∧
      e'.work = g (c.cipher.desE key block) e.work := by
  obtain ⟨enc, e1, hdes, hmove⟩ := andThen_eq_ok_iff.mp h
  obtain ⟨-, -, rfl, rest, rfl⟩ := singleDesEncrypt_ok hdes
  cases hmove
  exact ⟨rfl, rfl, rfl⟩

/-- A completed key update counts two single-DES requests and keeps the loop's place. -/
theorem keyUpdate_ok_counts (h : keyUpdate c e = .ok u e') :
    e'.sdescnt = e.sdescnt + 2 ∧ e'.tdescnt = e.tdescnt ∧
      e'.work.r3 = e.work.r3 ∧ e'.work.sr = e.work.sr := by
  obtain ⟨_, e1, hreg2, h1⟩ := andThen_eq_ok_iff.mp h
  obtain ⟨_, e2, hreg1, h2⟩ := andThen_eq_ok_iff.mp h1
  cases h2
  obtain ⟨hs2, ht2, hw2⟩ :=
    desThenMove_ok (g := fun enc w => { w with reg2 := xorBytes enc _ }) hreg2
  obtain ⟨hs1, ht1, hw1⟩ :=
    desThenMove_ok (g := fun enc w => { w with reg1 := xorBytes enc _ }) hreg1
  refine ⟨?_, ?_, ?_, ?_⟩
  · rw [joinKey_sdescnt, hs1, varyKey_sdescnt, hs2, orMask_sdescnt, BitVec.add_assoc]
    rfl
  · rw [joinKey_tdescnt, ht1, varyKey_tdescnt, ht2, orMask_tdescnt]
  · rw [joinKey_work_r3, hw1, varyKey_work_r3, hw2, orMask_work_r3]
  · rw [joinKey_work_sr, hw1, varyKey_work_sr, hw2, orMask_work_sr]

/-- A completed pass counts two single-DES requests if its counter bit is set, none otherwise. -/
theorem derivePass_ok_counts {x k : Nat} (hk : k < 21) (hx : BitsToCome x (k + 1) e.work)
    (h : derivePass c e = .ok u e') :
    e'.sdescnt = e.sdescnt + BitVec.ofNat 32 (2 * (x.testBit k).toNat) ∧
      e'.tdescnt = e.tdescnt ∧ BitsToCome x k e'.work := by
  cases hbit : x.testBit k with
  | false =>
    rw [derivePass_of_unset hk hx hbit] at h
    cases h
    exact ⟨(BitVec.add_zero _).symm, rfl, bitsToCome_shiftMask hk hx⟩
  | true =>
    rw [derivePass_of_set hk hx hbit] at h
    obtain ⟨_, e1, hupd, hshift⟩ := andThen_eq_ok_iff.mp h
    cases hshift
    obtain ⟨hs, ht, hr3, hsr⟩ := keyUpdate_ok_counts hupd
    exact ⟨hs, ht, bitsToCome_shiftMask hk ⟨hr3.trans hx.r3, hsr.trans hx.sr⟩⟩

theorem deriveLoop_ok_counts {x k n : Nat} (hk : k ≤ 21) (hn : k ≤ n)
    (hx : BitsToCome x k e.work) (h : deriveLoop c n e = .ok u e') :
    e'.sdescnt = e.sdescnt + BitVec.ofNat 32 (2 * hammingWeight k x) ∧
      e'.tdescnt = e.tdescnt := by
  induction k generalizing n e with
  | zero =>
    rw [deriveLoop_of_none_to_come hx] at h
    cases h
    exact ⟨(BitVec.add_zero _).symm, rfl⟩
  | succ k ih =>
    obtain ⟨n, rfl⟩ := Nat.exists_eq_add_one_of_ne_zero (Nat.ne_zero_of_lt hn)
    rw [deriveLoop_of_bits_to_come hk hx] at h
    obtain ⟨_, e1, hpass, hloop⟩ := andThen_eq_ok_iff.mp h
    obtain ⟨hs1, ht1, hx1⟩ := derivePass_ok_counts hk hx hpass
    obtain ⟨hs, ht⟩ := ih (by omega) (by omega) hx1 hloop
    refine ⟨?_, ht.trans ht1⟩
    rw [hs, hs1, hammingWeight_succ, Nat.mul_add, BitVec.ofNat_add, BitVec.add_assoc]

/-- A completed initial key generation counts two triple-DES requests and no other. -/
theorem generateIpek_ok_counts {ksn bdk r : ByteVec} (h : generateIpek c ksn bdk e = .ok r e') :
    e'.sdescnt = e.sdescnt ∧ e'.tdescnt = e.tdescnt + 2 ∧ e'.work = e.work := by
  unfold generateIpek at h
  split at h
  · cases h
  · obtain ⟨left, e1, hleft, h1⟩ := andThen_eq_ok_iff.mp h
    obtain ⟨right, e2, hright, h2⟩ := andThen_eq_ok_iff.mp h1
    obtain ⟨-, -, -, rest1, rfl⟩ := tripleDesEncrypt_ok hleft
    obtain ⟨-, -, -, rest2, rfl⟩ := tripleDesEncrypt_ok hright
    cases h2
    exact ⟨rfl, BitVec.add_assoc e.tdescnt 1 1, rfl⟩

theorem deriveKey_ok_counts {ksn bdk r : ByteVec} (h : deriveKey c ksn bdk e = .ok r e') :
    e'.sdescnt = e.sdescnt + BitVec.ofNat 32 (2 * counterWeight ksn) ∧
      e'.tdescnt = e.tdescnt + 2 := by
  unfold deriveKey at h
  split at h
  · cases h
  · next hksn =>
    obtain ⟨ipek, e1, hipek, h1⟩ := andThen_eq_ok_iff.mp h
    obtain ⟨_, e2, hloop, h2⟩ := andThen_eq_ok_iff.mp h1
    cases h2
    obtain ⟨hs1, ht1, hw1⟩ := generateIpek_ok_counts hipek
    have hx := bitsToCome_start (w := { e1.work with curkey := ipek, sr := srInit })
      (not_not.mp hksn) (congrArg Work.r3 hw1) rfl
    obtain ⟨hs, ht⟩ := deriveLoop_ok_counts (Nat.le_refl 21) (by decide) hx hloop
    refine ⟨hs.trans ?_, ht.trans ht1⟩
    exact congrArg (fun d => d + BitVec.ofNat 32 (2 * counterWeight ksn)) hs1

end Completed

/-- A command with a register destination that ends with `ERRCODE` 0 has completed. -/
theorem finishV_errcode_eq_zero {vd : VIdx} {s : State} {x : Res ByteVec}
    (h : (finishV vd s x).errcode = 0) :
    ∃ r e, x = .ok r e ∧ (finishV vd s x).eng = e.clear := by
  cases x with
  | ok r e => exact ⟨r, e, rfl, rfl⟩
  | raise err e =>
    obtain ⟨hcode, hpos, -⟩ := errWord_toNat err
    have h0 : errWord err = 0 := h
    rw [← hcode, h0] at hpos
    exact absurd hpos (by decide)

/-- Settles O37: the two requests of the initial key generation, then two for each set bit. -/
theorem loopCountIsTwiceTheWeight : Obligations.LoopCountIsTwiceTheWeight := by
  refine ⟨fun c ksn bdk r e e' h => deriveKey_ok_counts h, fun vd va vb s t ht h0 => ?_,
    fun ksn => Nat.mul_le_mul_left 2 (hammingWeight_le 21 _)⟩
  cases ht
  obtain ⟨r, e, hkey, heng⟩ := finishV_errcode_eq_zero h0
  obtain ⟨hs, ht⟩ := deriveKey_ok_counts hkey
  exact ⟨(congrArg Engine.sdescnt heng).trans hs, (congrArg Engine.tdescnt heng).trans ht⟩

end Sys2Proof.Machine
end

section
/-! Proofs about 42_key_derivation.md, fourth part: the key DERIVE computes and the requests it
issues (R146, R147, R170). -/

namespace Sys2Proof.Machine

/-! A half of a key update (R170) -/

theorem xorBytes_comm (a b : ByteVec) : xorBytes a b = xorBytes b a :=
  List.zipWith_comm_of_comm BitVec.xor_comm

theorem leftHalf_eq_take (key : ByteVec) : leftHalf key = key.take 8 := rfl

theorem rightHalf_eq_drop {key : ByteVec} (h : key.length = 16) : rightHalf key = key.drop 8 :=
  List.take_of_length_le (by rw [List.length_drop, h])

theorem length_halfOf {c : Cipher} (hlaw : c.Lawful) {k x : ByteVec} (hk : k.length = 16)
    (hx : x.length = 8) : (halfOf c k x).length = 8 := by
  have hdes := hlaw.desE_length (k.take 8) (xorBytes (k.drop 8) x) (by simp [hk]) (by simp [hk, hx])
  simp [halfOf, hdes, hk]

theorem length_updateOf {c : Cipher} (hlaw : c.Lawful) {k x : ByteVec} (hk : k.length = 16)
    (hx : x.length = 8) : (updateOf c k x).length = 16 := by
  rw [updateOf, List.length_append, length_halfOf hlaw ((length_variantOf k).trans hk) hx,
    length_halfOf hlaw hk hx]

theorem length_ipekOf {c : Cipher} (hlaw : c.Lawful) {ksn bdk : ByteVec} (hksn : ksn.length = 10)
    (hbdk : bdk.length = 16 ∨ bdk.length = 24) : (ipekOf c ksn bdk).length = 16 := by
  have hkey (key : ByteVec) (h : key.length = 16 ∨ key.length = 24) :
      (c.tdesCbcE (key24Of key) (coreOf ksn)).length = 8 := by
    have h24 : (key24Of key).length = 24 := by rw [← expandKey_eq_key24Of h, length_expandKey h]
    rw [hlaw.tdesCbcE_length _ _ h24 (by rw [length_coreOf hksn]), length_coreOf hksn]
  rw [ipekOf, List.length_append, hkey bdk hbdk, hkey _ (by rwa [length_variantOf])]

/-- The right half XORed into the answer of a half's request makes that half. -/
theorem xorBytes_answer_eq_halfOf (c : Cipher) {key : ByteVec} (x : ByteVec)
    (hkey : key.length = 16) :
    xorBytes (c.desE (key.take 8) (xorBytes (key.drop 8) x)) (rightHalf key) = halfOf c key x := by
  rw [rightHalf_eq_drop hkey, halfOf]
  exact xorBytes_comm _ _

section Issues

variable {c : Config} {e e' : Engine} {P : Work → Prop}

/-- The request of a half: the right half of the key is XORed into its block. -/
theorem issues_halfRequest {key x : ByteVec} (hkey : key.length = 16) (hx : x.length = 8)
    (hc : e.clear = e'.clear) (hw : P e.work) :
    (singleDesEncrypt c (xorBytes x (rightHalf key)) (leftHalf key) e).Issues c [.des] e'
      (c.cipher.desE (key.take 8) (xorBytes (key.drop 8) x)) P := by
  rw [leftHalf_eq_take, rightHalf_eq_drop hkey, xorBytes_comm x]
  exact issues_singleDesEncrypt (by simp [hkey]) (by simp [hkey, hx]) hc hw

/-- The update of `REG2` (R146 step 4b). -/
theorem issues_updateReg2 (hkey : e.work.curkey.length = 16) (hr8 : e.work.r8.length = 8)
    (hc : e.clear = e'.clear) : (updateReg2 c e).Issues c [.des] e' ()
      (· = { e.work with reg2 := halfOf c.cipher e.work.curkey e.work.r8 }) := by
  refine Res.Issues.andThen (ks' := [])
    (P := (· = { e.work with reg2 := xorBytes e.work.r8 (rightHalf e.work.curkey) }))
    (issues_halfRequest hkey hr8 ?_ rfl) fun e1 e1' hc1 hw1 => issues_ok hc1 ?_
  · exact hc
  · rw [hw1, ← xorBytes_answer_eq_halfOf c.cipher _ hkey]

/-- The update of `REG1` (R146 step 4b). -/
theorem issues_updateReg1 (hkey : e.work.curkey.length = 16) (hr8 : e.work.r8.length = 8)
    (hc : e.clear = e'.clear) : (updateReg1 c e).Issues c [.des] e' ()
      (· = { e.work with reg1 := halfOf c.cipher e.work.curkey e.work.r8 }) := by
  refine Res.Issues.andThen (ks' := [])
    (P := (· = { e.work with reg1 := xorBytes e.work.r8 (rightHalf e.work.curkey) }))
    (issues_halfRequest hkey hr8 ?_ rfl) fun e1 e1' hc1 hw1 => issues_ok hc1 ?_
  · exact hc
  · rw [hw1, ← xorBytes_answer_eq_halfOf c.cipher _ hkey]

/-- `w'` is `w` after the key update of step 4b, whose mask bit is in `SR` (R146, R170). -/
structure Updated (c : Cipher) (w w' : Work) : Prop where
  r3 : w'.r3 = w.r3
  sr : w'.sr = w.sr
  r8 : w'.r8 = orBytes w.r8 w.sr
  curkey : w'.curkey = updateOf c w.curkey (orBytes w.r8 w.sr)

/-- The key update issues the requests of its two halves. -/
theorem issues_keyUpdate (hkey : e.work.curkey.length = 16)
    (hr8 : (orBytes e.work.r8 e.work.sr).length = 8) (hc : e.clear = e'.clear) :
    (keyUpdate c e).Issues c [.des, .des] e' () (Updated c.cipher e.work) := by
  refine (issues_updateReg2 (e := orMask e) hkey hr8 hc).andThen (ks' := [.des])
    fun e1 e1' hc1 hw1 => ?_
  have hvar : (varyKey e1).work.curkey = variantOf e.work.curkey := by
    rw [varyKey_work_curkey, hw1]
    exact xorBytes_variantMask hkey
  have hor : (varyKey e1).work.r8 = orBytes e.work.r8 e.work.sr := by
    rw [varyKey_work_r8, hw1]
    rfl
  refine (issues_updateReg1 (e := varyKey e1) (by rw [hvar, length_variantOf, hkey])
    (by rw [hor, hr8]) hc1).andThen (ks' := []) fun e2 e2' hc2 hw2 => issues_ok hc2 ?_
  rw [hvar, hor] at hw2
  constructor
  · rw [joinKey_work_r3, hw2, varyKey_work_r3, hw1, orMask_work_r3]
  · rw [joinKey_work_sr, hw2, varyKey_work_sr, hw1, orMask_work_sr]
  · rw [joinKey_work_r8, hw2, hor]
  · rw [joinKey_work_curkey, hw2, varyKey_work_reg2, hw1, updateOf]
    rfl

end Issues

/-! `R8` collects the counter bits (R146, reading note (ii)) -/

@[simp] theorem length_prefixOf (ksn : ByteVec) (k : Nat) : (prefixOf ksn k).length = 8 :=
  length_encBytes 8 _

theorem subBytes_zeroCounter_eq_prefixOf {ksn : ByteVec} (h : ksn.length = 10) :
    subBytes (zeroCounter ksn) 2 9 = prefixOf ksn 21 := by
  rw [subBytes_two_nine (length_zeroCounter h), beInt_zeroCounter h, prefixOf]

/-- Zeroing the bits below `k` instead of those up to `k` adds bit `k`. -/
theorem div_mul_two_pow_eq_or (x k : Nat) :
    x / 2 ^ k * 2 ^ k = x / 2 ^ (k + 1) * 2 ^ (k + 1) ||| (x.testBit k).toNat * 2 ^ k := by
  refine Nat.eq_of_testBit_eq fun i => ?_
  rw [← Nat.and_two_pow, Nat.testBit_or, Nat.testBit_and, Nat.testBit_two_pow,
    testBit_div_mul_two_pow, testBit_div_mul_two_pow]
  obtain hlt | heq | hgt := Nat.lt_trichotomy i k
  · simp [Nat.not_le.mpr hlt, hlt.ne', Nat.not_le.mpr (hlt.trans k.lt_succ_self)]
  · simp [heq]
  · simp [hgt.le, hgt.ne, Nat.succ_le_of_lt hgt]

theorem prefixOf_of_unset {ksn : ByteVec} {k : Nat} (h : (beInt ksn).testBit k = false) :
    prefixOf ksn (k + 1) = prefixOf ksn k := by
  rw [prefixOf, prefixOf, div_mul_two_pow_eq_or (beInt ksn) k, h, Bool.toNat_false, Nat.zero_mul,
    Nat.or_zero]

theorem orBytes_prefixOf_of_set {ksn : ByteVec} {k : Nat} (hk : k < 21)
    (h : (beInt ksn).testBit k = true) :
    orBytes (prefixOf ksn (k + 1)) (srBelow (k + 1)) = prefixOf ksn k := by
  have hlen : (prefixOf ksn (k + 1)).length = (srBelow (k + 1)).length := by
    rw [length_prefixOf, length_srBelow]
  have hor : (orBytes (prefixOf ksn (k + 1)) (srBelow (k + 1))).length =
      (prefixOf ksn k).length := by
    rw [length_orBytes, ← hlen, length_prefixOf, length_prefixOf, Nat.min_self]
  refine beInt_inj hor ?_
  have hsr : 2 ^ k % 2 ^ 64 = 2 ^ k :=
    Nat.mod_eq_of_lt (Nat.pow_lt_pow_right (by decide) (by omega))
  rw [beInt_orBytes hlen, beInt_srBelow_succ hk, prefixOf, prefixOf, beInt_encBytes, beInt_encBytes,
    div_mul_two_pow_eq_or (beInt ksn) k, h, Bool.toNat_true, Nat.one_mul,
    show 256 ^ 8 = 2 ^ 64 from rfl, Nat.or_mod_two_pow, hsr]

/-! The loop (R146 step 4) -/

/-- What a pass makes of the key. -/
def bitUpdate (c : Cipher) (ksn key : ByteVec) (k : Nat) : ByteVec :=
  if (beInt ksn).testBit k then updateOf c key (prefixOf ksn k) else key

theorem length_bitUpdate {c : Cipher} (hlaw : c.Lawful) (ksn : ByteVec) {key : ByteVec} (k : Nat)
    (h : key.length = 16) : (bitUpdate c ksn key k).length = 16 := by
  unfold bitUpdate
  split
  · exact length_updateOf hlaw h (length_prefixOf ksn k)
  · exact h

/-- The derived key, pass by pass. -/
theorem derivedOf_eq_foldl (c : Cipher) (ksn bdk : ByteVec) :
    derivedOf c ksn bdk = (List.range 21).reverse.foldl (bitUpdate c ksn) (ipekOf c ksn bdk) := by
  have horder : (List.range 21).reverse = (List.range 21).map (20 - ·) := by decide
  rw [horder, List.foldl_map]
  rfl

/-- The working registers before the pass for bit `k - 1`. -/
structure LoopState (ksn : ByteVec) (k : Nat) (key : ByteVec) (w : Work) : Prop extends
    BitsToCome (beInt ksn) k w where
  r8 : w.r8 = prefixOf ksn k
  curkey : w.curkey = key

section Loop

variable {c : Config} {ksn key : ByteVec} {k n : Nat} {e e' : Engine}

/-- One pass issues two requests if its counter bit is set, none otherwise. -/
theorem issues_derivePass (hk : k < 21) (hkey : key.length = 16)
    (hw : LoopState ksn (k + 1) key e.work) (hc : e.clear = e'.clear) :
    (derivePass c e).Issues c (List.replicate (2 * ((beInt ksn).testBit k).toNat) .des) e' ()
      (LoopState ksn k (bitUpdate c.cipher ksn key k)) := by
  cases hbit : (beInt ksn).testBit k with
  | false =>
    rw [derivePass_of_unset hk hw.toBitsToCome hbit]
    refine issues_ok hc ⟨bitsToCome_shiftMask hk hw.toBitsToCome, ?_, ?_⟩
    · rw [shiftMask_work_r8, hw.r8, prefixOf_of_unset hbit]
    · rw [shiftMask_work_curkey, hw.curkey, bitUpdate, hbit]
      rfl
  | true =>
    have hr8 : orBytes e.work.r8 e.work.sr = prefixOf ksn k := by
      rw [hw.r8, hw.sr, orBytes_prefixOf_of_set hk hbit]
    rw [derivePass_of_set hk hw.toBitsToCome hbit]
    refine Res.Issues.andThen (ks' := [])
      (issues_keyUpdate (hw.curkey ▸ hkey) (by rw [hr8, length_prefixOf]) hc)
      fun e1 e1' hc1 hupd => issues_ok hc1
        ⟨bitsToCome_shiftMask hk ⟨hupd.r3.trans hw.r3, hupd.sr.trans hw.sr⟩, ?_, ?_⟩
    · rw [shiftMask_work_r8, hupd.r8, hr8]
    · rw [shiftMask_work_curkey, hupd.curkey, hr8, hw.curkey, bitUpdate, hbit]
      rfl

/-- The passes for the low `k` counter bits: their requests, and the key they leave. -/
theorem issues_deriveLoop (hlaw : c.cipher.Lawful) (hk : k ≤ 21) (hn : k ≤ n)
    (hkey : key.length = 16) (hw : LoopState ksn k key e.work) (hc : e.clear = e'.clear) :
    (deriveLoop c n e).Issues c (List.replicate (2 * hammingWeight k (beInt ksn)) .des) e' ()
      (·.curkey = (List.range k).reverse.foldl (bitUpdate c.cipher ksn) key) := by
  induction k generalizing n key e e' with
  | zero =>
    rw [deriveLoop_of_none_to_come hw.toBitsToCome]
    exact issues_ok hc hw.curkey
  | succ k ih =>
    obtain ⟨n, rfl⟩ := Nat.exists_eq_add_one_of_ne_zero (Nat.ne_zero_of_lt hn)
    rw [deriveLoop_of_bits_to_come hk hw.toBitsToCome, hammingWeight_succ, Nat.mul_add,
      ← List.replicate_append_replicate, List.range_succ, List.reverse_append]
    exact (issues_derivePass hk hkey hw hc).andThen fun e1 e1' hc1 hw1 =>
      ih (by omega) (by omega) (length_bitUpdate hlaw ksn k hkey) hw1 hc1

end Loop

/-! DERIVE (R146, R147) -/

/-- The requests of a derivation: two for the initial key, two for each set counter bit. -/
def deriveRequests (ksn : ByteVec) : List Request :=
  [.tdes, .tdes] ++ List.replicate (2 * counterWeight ksn) .des

/-- With the right lengths a derivation issues these requests and computes `derivedOf`. -/
theorem issues_deriveKey {c : Config} (hlaw : c.cipher.Lawful) {ksn bdk : ByteVec} {e e' : Engine}
    (hksn : ksn.length = 10) (hbdk : bdk.length = 16 ∨ bdk.length = 24) (hc : e.clear = e'.clear) :
    (deriveKey c ksn bdk e).Issues c (deriveRequests ksn) e' (derivedOf c.cipher ksn bdk)
      (fun _ => True) := by
  have hipek : (generateIpek c ksn bdk (loadCounter ksn e)).Issues c [.tdes, .tdes] e'
      (ipekOf c.cipher ksn bdk) (· = (loadCounter ksn e).work) :=
    issues_generateIpek hksn hbdk hc rfl
  rw [deriveKey, if_neg (not_not.mpr hksn), deriveRequests]
  refine hipek.andThen fun e1 e1' hc1 hw1 => ?_
  have hw : LoopState ksn 21 (ipekOf c.cipher ksn bdk)
      { e1.work with curkey := ipekOf c.cipher ksn bdk, sr := srInit } := by
    rw [hw1]
    exact ⟨bitsToCome_start hksn rfl rfl, subBytes_zeroCounter_eq_prefixOf hksn, rfl⟩
  have hloop := issues_deriveLoop (n := 64)
    (e := { e1 with work := { e1.work with curkey := ipekOf c.cipher ksn bdk, sr := srInit } })
    hlaw (Nat.le_refl 21) (by decide) (length_ipekOf hlaw hksn hbdk) hw hc1
  rw [← List.append_nil (List.replicate _ _)]
  refine hloop.andThen fun e2 e2' hc2 hw2 => ?_
  rw [hw2, ← derivedOf_eq_foldl]
  exact issues_ok hc2 trivial

theorem length_deriveRequests (ksn : ByteVec) :
    (deriveRequests ksn).length = 2 + 2 * counterWeight ksn := by
  rw [deriveRequests, List.length_append, List.length_replicate]
  rfl

theorem count_deriveRequests (ksn : ByteVec) :
    (deriveRequests ksn).count .des = 2 * counterWeight ksn ∧
      (deriveRequests ksn).count .tdes = 2 := by
  simp [deriveRequests, List.count_replicate]

/-- The requests up to number `m + 1`, after the first. -/
theorem count_take_deriveRequests {ksn : ByteVec} {m : Nat} (h1 : 1 ≤ m)
    (hm : m < 2 + 2 * counterWeight ksn) :
    ((deriveRequests ksn).take (m + 1)).count .des = m - 1 ∧
      ((deriveRequests ksn).take (m + 1)).count .tdes = 2 := by
  obtain ⟨j, rfl⟩ := Nat.exists_eq_add_of_le' h1
  have hj : min j (2 * counterWeight ksn) = j := by omega
  simp [deriveRequests, List.take_replicate, List.count_replicate, hj]

/-- The reference cipher's laws, as the machine's configuration has them (O49). -/
theorem dke_cipher_lawful : dke.cipher.Lawful := referenceCipherIsLawful

/-- Settles O34: the requests and the value of `deriveKey`, all of them answered. -/
theorem deriveResult : Obligations.DeriveResult := by
  intro vd va vb s hksn hbdk h
  obtain ⟨hdes, htdes⟩ := count_deriveRequests (s.vval va)
  have hend := finishV_of_answered vd (issues_deriveKey dke_cipher_lawful hksn hbdk rfl)
    (by rwa [length_deriveRequests])
  rw [hdes, htdes] at hend
  exact congrArg Host.Outcome.next hend

/-- A derivation with a key of no admitted length raises without a request (R145). -/
theorem deriveKey_of_bdk_length (c : Config) {ksn bdk : ByteVec} (e : Engine)
    (hksn : ksn.length = 10) (h16 : bdk.length ≠ 16) (h24 : bdk.length ≠ 24) :
    deriveKey c ksn bdk e = .raise .invalidKeyLength (loadCounter ksn e) := by
  rw [deriveKey, if_neg (not_not.mpr hksn), generateIpek_of_bdk_length c _ hksn h16 h24,
    andThen_raise]

/-- Settles O35, by the two length tests and the failing request's place among the requests. -/
theorem deriveErrors : Obligations.DeriveErrors := by
  intro vd va vb s
  refine ⟨opIs_of_fieldsSpec rfl, fun hksn => ?_, fun hksn h16 h24 => ?_, fun hksn hbdk => ?_⟩
  · exact congrArg Host.Outcome.next (formVVV_raise (err := .lengthMismatch) (if_pos hksn))
  · refine congrArg Host.Outcome.next ?_
    rw [formVVV, deriveKey_of_bdk_length dke _ hksn h16 h24]
    exact finishV_raise_eq_afterAbort vd s _ (ranEngine_zero s.eng).symm
  · have hissues := issues_deriveKey dke_cipher_lawful (e := s.eng) hksn hbdk rfl
    refine ⟨fun h => ?_, fun m h1 hm h => ?_⟩
    · exact congrArg Host.Outcome.next (finishV_of_fails vd hissues (Nat.zero_lt_succ _) h)
    · obtain ⟨hdes, htdes⟩ := count_take_deriveRequests h1 hm
      have hend := finishV_of_fails vd hissues (hm.trans_eq (length_deriveRequests _).symm) h
      rw [hdes, htdes] at hend
      exact congrArg Host.Outcome.next hend

end Sys2Proof.Machine
end

section
/-! Proofs about 43_key_construction.md: the base-key construction (R161 to R163, R166, R167), the
PIN constructions (R164, R165, R168, R169), and the base-key construction as one iteration of the
derivation (R170). -/

namespace Sys2Proof.Machine

/-! The base-key construction under reading A (R161 to R163) -/

/-- The key's length is tested first (R160). -/
theorem basePekHalf_of_key_length (c : Config) {key : ByteVec} (ksn : ByteVec) (e : Engine)
    (h : key.length ≠ 16) : basePekHalf c key ksn e = .raise .invalidKeyLength e := if_pos h

theorem basePekHalf_of_ksn_length (c : Config) {key ksn : ByteVec} (e : Engine)
    (hkey : key.length = 16) (hksn : ksn.length ≠ 10) :
    basePekHalf c key ksn e = .raise .lengthMismatch e := by
  rw [basePekHalf, if_neg (not_not.mpr hkey), if_pos hksn]

/-- What the first half raises, the whole construction raises. -/
theorem basePek_of_basePekHalf_raise {c : Config} {key ksn : ByteVec} {e e' : Engine} {err : Err}
    (h : basePekHalf c key ksn e = .raise err e') : basePek c key ksn e = .raise err e' := by
  rw [basePek, h, andThen_raise]

theorem ksnMod_a_eq_drop {ksn : ByteVec} (h : ksn.length = 10) : ksnMod .a ksn = ksn.drop 2 :=
  List.take_of_length_le (by rw [List.length_drop, h])

section Issues

variable {c : Config} {key ksn : ByteVec} {e e' : Engine} {P : Work → Prop}

/-- A half of the base-key construction issues one request and is R170's `basePekHalf'`. -/
theorem issues_basePekHalf (hread : c.ksnModReading = .a) (hkey : key.length = 16)
    (hksn : ksn.length = 10) (hc : e.clear = e'.clear) (hw : P e.work) :
    (basePekHalf c key ksn e).Issues c [.des] e' (halfOf c.cipher key (ksn.drop 2)) P := by
  have hmod : (ksn.drop 2).length = 8 := by rw [List.length_drop, hksn]
  rw [basePekHalf, if_neg (not_not.mpr hkey), if_neg (not_not.mpr hksn), hread,
    ksnMod_a_eq_drop hksn, xorBytes_comm (rightHalf key)]
  refine (issues_halfRequest hkey hmod hc hw).andThen fun _ _ hc1 hw1 => ?_
  rw [rightHalf_eq_drop hkey]
  exact issues_ok hc1 hw1

/-- The base-key construction issues the requests of its two halves, the key's own half first. -/
theorem issues_basePek (hread : c.ksnModReading = .a) (hkey : key.length = 16)
    (hksn : ksn.length = 10) (hc : e.clear = e'.clear) (hw : P e.work) :
    (basePek c key ksn e).Issues c [.des, .des] e' (basePekOf c.cipher key ksn) P := by
  have hvar : (variantOf key).length = 16 := (length_variantOf key).trans hkey
  rw [basePek, xorBytes_variantMask hkey]
  exact (issues_basePekHalf hread hkey hksn hc hw).andThen fun _ _ hc1 hw1 =>
    (issues_basePekHalf hread hvar hksn hc1 hw1).andThen fun _ _ hc2 hw2 => issues_ok hc2 hw2

end Issues

/-- Settles O39, by the two length tests and the one request. -/
theorem bpekhResult : Obligations.BpekhResult := by
  intro vd va vb s
  refine ⟨opIs_of_fieldsSpec rfl, fun hkey => ?_, fun hkey hksn => ?_, fun hkey hksn => ?_⟩
  · exact congrArg Host.Outcome.next (formVVV_raise (basePekHalf_of_key_length dke _ _ hkey))
  · exact congrArg Host.Outcome.next (formVVV_raise (basePekHalf_of_ksn_length dke _ hkey hksn))
  · have hissues := issues_basePekHalf (c := dke) (e := s.eng) (P := fun _ => True) rfl hkey hksn
      rfl trivial
    exact ⟨fun h => congrArg Host.Outcome.next (finishV_of_answered vd hissues h),
      fun h => congrArg Host.Outcome.next (finishV_of_fails vd hissues (by decide) h)⟩

/-- Settles O40, by the first half's length tests and the two requests. -/
theorem bpekResult : Obligations.BpekResult := by
  intro vd va vb s
  refine ⟨opIs_of_fieldsSpec rfl, fun hkey => ?_, fun hkey hksn => ?_, fun hkey hksn => ?_⟩
  · exact congrArg Host.Outcome.next (formVVV_raise
      (basePek_of_basePekHalf_raise (basePekHalf_of_key_length dke _ _ hkey)))
  · exact congrArg Host.Outcome.next (formVVV_raise
      (basePek_of_basePekHalf_raise (basePekHalf_of_ksn_length dke _ hkey hksn)))
  · have hissues := issues_basePek (c := dke) (e := s.eng) (P := fun _ => True) rfl hkey hksn
      rfl trivial
    exact ⟨fun h => congrArg Host.Outcome.next (finishV_of_answered vd hissues h),
      fun h => congrArg Host.Outcome.next (finishV_of_fails vd hissues (by decide) h),
      fun h => congrArg Host.Outcome.next (finishV_of_fails vd hissues (by decide) h)⟩

/-! The PIN constructions (R164, R165) -/

/-- `PIN_CONST` on both halves complements bytes 5 and 13. -/
theorem pinKey_eq_pinKeyOf {key : ByteVec} (h : key.length = 16) : pinKey key = pinKeyOf key := by
  have hwhole : pinKey key = xorBytes key (pinConst ++ pinConst) := by
    have hlen : (key.take 8).length = pinConst.length := by rw [List.length_take, h]; rfl
    rw [pinKey, leftHalf_eq_take, rightHalf_eq_drop h, xorBytes, xorBytes,
      ← List.zipWith_append hlen, List.take_append_drop, xorBytes]
  have hmask : ∀ i < 16, (pinConst ++ pinConst).getD i 0 = if i = 5 ∨ i = 13 then 0xFF else 0 := by
    decide
  rw [hwhole]
  refine List.ext_getElem (by simp [pinKeyOf, h]) fun i hi _ => ?_
  have hlt : i < (pinConst ++ pinConst).length := List.lt_length_right_of_zipWith hi
  have hbyte := hmask i hlt
  rw [List.getD_eq_getElem _ _ hlt] at hbyte
  simp only [xorBytes, pinKeyOf, List.getElem_zipWith, List.getElem_mapIdx, hbyte]
  split
  · exact BitVec.xor_allOnes
  · exact BitVec.xor_zero

theorem length_pinKeyOf (key : ByteVec) : (pinKeyOf key).length = key.length := List.length_mapIdx

/-- `pinL` and `pinR` are the halves of the varied key (R164 step 2). -/
theorem xorBytes_pinConst_halves {key : ByteVec} (h : key.length = 16) :
    xorBytes (leftHalf key) pinConst = (pinKeyOf key).take 8 ∧
      xorBytes (rightHalf key) pinConst = (pinKeyOf key).drop 8 := by
  have hlen : (xorBytes (leftHalf key) pinConst).length = 8 := by simp [leftHalf, h]
  rw [← pinKey_eq_pinKeyOf h, pinKey]
  exact ⟨(List.take_left' hlen).symm, (List.drop_left' hlen).symm⟩

/-- A triple-DES encryption of whole blocks (R122). -/
theorem issues_tripleDesEncrypt {c : Config} {data key : ByteVec} {e e' : Engine}
    {P : Work → Prop} (hkey : key.length = 16 ∨ key.length = 24) (hdata : data.length % 8 = 0)
    (hc : e.clear = e'.clear) (hw : P e.work) : (tripleDesEncrypt c data key e).Issues c [.tdes] e'
      (c.cipher.tdesCbcE (key24Of key) data) P := by
  rw [tripleDesEncrypt_of_lengths c e hkey hdata]
  exact issues_portRespond .tdes _ hc hw

/-- The variant construction encrypts each half of the varied key under the whole of it. -/
theorem issues_pekWithVariant {c : Config} {key : ByteVec} {e e' : Engine} {P : Work → Prop}
    (hkey : key.length = 16) (hc : e.clear = e'.clear) (hw : P e.work) :
    (pekWithVariant c key e).Issues c [.tdes, .tdes] e' (pekVariantOf c.cipher key) P := by
  obtain ⟨hpinL, hpinR⟩ := xorBytes_pinConst_halves hkey
  have hpin : (pinKeyOf key).length = 16 := (length_pinKeyOf key).trans hkey
  simp only [pekWithVariant, if_neg (not_not.mpr hkey), hpinL, hpinR, List.take_append_drop]
  exact (issues_tripleDesEncrypt (.inl hpin) (by simp [hpin]) hc hw).andThen
    fun _ _ hc1 hw1 =>
    (issues_tripleDesEncrypt (.inl hpin) (by simp [hpin]) hc1 hw1).andThen
      fun _ _ hc2 hw2 => issues_ok hc2 hw2

/-- Settles O41, by the length test and the two requests. -/
theorem pekvResult : Obligations.PekvResult := by
  intro vd va s
  refine ⟨opIs_of_fieldsSpec rfl, fun hkey => ?_, fun hkey => ?_⟩
  · exact congrArg Host.Outcome.next (formVV_raise (err := .invalidKeyLength) (if_pos hkey))
  · have hissues := issues_pekWithVariant (c := dke) (e := s.eng) (P := fun _ => True) hkey rfl
      trivial
    exact ⟨fun h => congrArg Host.Outcome.next (finishV_of_answered vd hissues h),
      fun h => congrArg Host.Outcome.next (finishV_of_fails vd hissues (by decide) h),
      fun h => congrArg Host.Outcome.next (finishV_of_fails vd hissues (by decide) h)⟩

theorem pekNoVariant_of_length {key : ByteVec} (e : Engine) (h : key.length = 16) :
    pekNoVariant key e = .ok (pinKeyOf key) e := by
  rw [pekNoVariant, if_neg (not_not.mpr h), pinKey_eq_pinKeyOf h]

/-- Settles O42: the varied key itself, the engine left as it is. -/
theorem peknvResult : Obligations.PeknvResult := by
  intro vd va s
  refine ⟨opIs_of_fieldsSpec rfl, fun hkey => ?_, fun hkey => ?_⟩
  · exact congrArg Host.Outcome.next (formVV_raise (err := .invalidKeyLength) (if_pos hkey))
  · exact congrArg Host.Outcome.next (formVV_ok (pekNoVariant_of_length s.eng hkey))

/-! A counter with one bit set (R170) -/

section NeverFails

variable {α : Type} {c : Config} {a : α} {ks : List Request} {e : Engine}

/-- A cipher unit that never fails lets every request through (41_cipher_port.md R128). -/
theorem issue_of_never_fails (a : α) (ks : List Request) (e : Engine)
    (h : c.cipherMayFail = false) : ∃ e1, issue c a ks e = .ok a e1 := by
  induction ks generalizing e with
  | nil => exact ⟨e, rfl⟩
  | cons k ks ih =>
    rw [issue, portRespond_never c _ _ h, andThen_ok]
    exact ih (k.count e)

/-- So a computation that only requests can end early completes. -/
theorem ok_of_issues_of_never_fails {x : Res α} {P : Work → Prop} (h : c.cipherMayFail = false)
    (hx : x.Issues c ks e a P) : ∃ e1, x = .ok a e1 := by
  obtain ⟨e', hissue⟩ := issue_of_never_fails a ks e h
  rw [Res.Issues, hissue] at hx
  cases x with
  | ok a' e1 =>
    obtain ⟨rfl, -, -⟩ := hx
    exact ⟨e1, rfl⟩
  | raise err e1 => exact hx.elim

end NeverFails

/-- With one bit set, the only pass that updates the key is that bit's. -/
theorem foldl_bitUpdate_of_one_bit (c : Cipher) {ksn : ByteVec} (key : ByteVec) {k n : Nat}
    (h : ∀ j < n, (beInt ksn).testBit j = decide (k = j)) :
    (List.range n).reverse.foldl (bitUpdate c ksn) key =
      if k < n then updateOf c key (prefixOf ksn k) else key := by
  induction n generalizing key with
  | zero => rfl
  | succ n ih =>
    have hbit := h n n.lt_succ_self
    rw [List.range_succ, List.reverse_append, List.reverse_singleton, List.singleton_append,
      List.foldl_cons, ih _ fun j hj => h j (hj.trans n.lt_succ_self), bitUpdate, hbit]
    by_cases hkn : k = n
    · subst hkn
      simp
    · have hlt : k < n + 1 ↔ k < n := by omega
      simp [hkn, hlt]

/-- With no bit set below `k`, the register value of bit `k`'s update is the whole of
`ksn[2..9]`. -/
theorem prefixOf_eq_drop {ksn : ByteVec} {k : Nat} (hksn : ksn.length = 10)
    (h : 2 ^ k ∣ beInt ksn) : prefixOf ksn k = ksn.drop 2 := by
  rw [prefixOf, Nat.div_mul_cancel h, ← subBytes_two_nine hksn]
  exact ksnMod_a_eq_drop hksn

/-- R170's equality: the derivation's one update is the base-key construction on the IPEK. -/
theorem derivedOf_of_one_bit (c : Cipher) {ksn : ByteVec} (bdk : ByteVec) {k : Nat}
    (hksn : ksn.length = 10) (hk : k < 21) (h : beInt ksn % 2 ^ 21 = 2 ^ k) :
    derivedOf c ksn bdk = basePekOf c (ipekOf c ksn bdk) ksn := by
  have hbits : ∀ j < 21, (beInt ksn).testBit j = decide (k = j) := fun j hj => by
    rw [← Nat.testBit_two_pow, ← h, Nat.testBit_mod_two_pow, decide_eq_true hj, Bool.true_and]
  have hdvd : 2 ^ k ∣ beInt ksn :=
    (Nat.dvd_mod_iff (Nat.pow_dvd_pow 2 hk.le)).mp (dvd_of_eq h.symm)
  rw [derivedOf_eq_foldl, foldl_bitUpdate_of_one_bit c _ hbits, if_pos hk,
    prefixOf_eq_drop hksn hdvd, basePekOf]

/-- Settles O38: neither computation can fail, and their values are equal. -/
theorem oneBitCounterDerivesTheBasePek : Obligations.OneBitCounterDerivesTheBasePek := by
  intro c ksn bdk e k hread hfail hlaw hksn hbdk hk hbit
  obtain ⟨e1, hipek⟩ := ok_of_issues_of_never_fails (P := fun _ => True) hfail
    (issues_generateIpek (e := e) hksn hbdk rfl trivial)
  obtain ⟨e2, hbase⟩ := ok_of_issues_of_never_fails (P := fun _ => True) hfail
    (issues_basePek (e := e1) hread (length_ipekOf hlaw hksn hbdk) hksn rfl trivial)
  obtain ⟨e3, hderive⟩ := ok_of_issues_of_never_fails hfail
    (issues_deriveKey (e := e) hlaw hksn hbdk rfl)
  rw [derivedOf_of_one_bit c.cipher bdk hksn hk hbit] at hderive
  exact ⟨_, _, e1, e2, e3, hipek, hbase, hderive⟩

end Sys2Proof.Machine
end

section
/-! Proofs about 44_workflow.md: ENCD and DECD (R181 to R183), DECTRK (R184) and the round trip
(R185). Each of the three commands makes a data key by requests and then asks for one triple-DES
operation on the payload, so what can end such a command is said once, for any data key. -/

namespace Sys2Proof.Machine

open Laws

/-! The end of a command whose destination is `P` (R182 to R184, 60_exceptions.md R232) -/

section FinishP

variable {s : State} {x : Res ByteVec} {r : ByteVec} {err : Err} {e : Engine} {ns nt : Nat}

theorem finishP_eq_afterP_of_ok (hx : x = .ok r e) (hran : e.clear = ranEngine s.eng ns nt) :
    finishP s x = afterP s r ns nt := by
  rw [hx, afterP, ← hran]
  rfl

theorem finishP_eq_afterAbort_of_raise (hx : x = .raise err e)
    (hran : e.clear = ranEngine s.eng ns nt) :
    finishP s x = afterAbort s (errCode err) ns nt := by
  rw [hx, afterAbort, ← hran]
  rfl

/-- A command with the payload as destination that ends with `ERRCODE` 0 has completed. -/
theorem finishP_errcode_eq_zero (h : (finishP s x).errcode = 0) :
    ∃ r e, x = .ok r e := by
  cases x with
  | ok r e => exact ⟨r, e, rfl⟩
  | raise err e =>
    obtain ⟨hcode, hpos, -⟩ := errWord_toNat err
    have h0 : errWord err = 0 := h
    rw [← hcode, h0] at hpos
    exact absurd hpos (by decide)

end FinishP

/-! What a computation that issues requests answers (41_cipher_port.md R128, R129) -/

section Outcomes

variable {α : Type} {x : Res α} {c : Config} {ks : List Request} {e e1 : Engine} {a a' : α}
  {P : Work → Prop} {m : Nat}

/-- Completed, it has the one value its requests can lead to. -/
theorem Res.Issues.eq_of_ok (hx : (Res.ok a' e1).Issues c ks e a P) : a' = a := by
  rw [Res.Issues] at hx
  generalize hy : issue c a ks e = y at hx
  cases y with
  | ok b e2 => exact hx.1.trans (eq_of_issue_eq_ok hy)
  | raise err e2 => exact hx.elim

/-- With all its requests answered it completes. -/
theorem Res.Issues.ok_of_answered (hx : x.Issues dke ks e a P) (h : Answered ks.length e) :
    ∃ e1, x = .ok a e1 ∧ e1.clear = ranEngine e (ks.count .des) (ks.count .tdes) := by
  obtain ⟨e2, hissue, hran⟩ := issue_of_answered a h
  rw [Res.Issues, hissue] at hx
  cases x with
  | ok a' e1 =>
    obtain ⟨rfl, hc, -⟩ := hx
    exact ⟨e1, rfl, hc.trans hran⟩
  | raise err e1 => exact hx.elim

/-- A request that fails ends it. -/
theorem Res.Issues.raise_of_fails (hx : x.Issues dke ks e a P) (hm : m < ks.length)
    (h : FailsAfter m e) : ∃ e1, x = .raise .cipherFailure e1 ∧
      e1.clear = ranEngine e ((ks.take (m + 1)).count .des) ((ks.take (m + 1)).count .tdes) := by
  obtain ⟨e2, hissue, hran⟩ := issue_of_fails a hm h
  rw [Res.Issues, hissue] at hx
  cases x with
  | ok a' e1 => exact hx.elim
  | raise err e1 =>
    obtain ⟨rfl, hc⟩ := hx
    exact ⟨e1, rfl, hc.trans hran⟩

end Outcomes

/-! The two triple-DES operations, in common (41_cipher_port.md R122, R123) -/

/-- `g` is a triple-DES operation with the function `f`, for a 16-byte key: one request for whole
blocks, an error for anything else. -/
structure IsTripleDes (c : Config) (g : ByteVec → ByteVec → Engine → Res ByteVec)
    (f : ByteVec → ByteVec → ByteVec) : Prop where
  of_blocks : ∀ {data key : ByteVec} (e : Engine), key.length = 16 → data.length % 8 = 0 →
    g data key e = portRespond c (f (key24Of key) data) (countTdes e)
  of_not_blocks : ∀ {data key : ByteVec} (e : Engine), key.length = 16 → data.length % 8 ≠ 0 →
    g data key e = .raise .invalidBlockLength e

theorem isTripleDes_encrypt (c : Config) :
    IsTripleDes c (tripleDesEncrypt c) c.cipher.tdesCbcE where
  of_blocks e hkey hdata := tripleDesEncrypt_of_lengths c e (.inl hkey) hdata
  of_not_blocks e hkey hdata := by rw [tripleDesEncrypt, if_neg (by omega), if_pos hdata]

theorem isTripleDes_decrypt (c : Config) :
    IsTripleDes c (tripleDesDecrypt c) c.cipher.tdesCbcD where
  of_blocks e hkey hdata := by
    rw [tripleDesDecrypt, if_neg (by omega), if_neg (not_not.mpr hdata),
      expandKey_eq_key24Of (.inl hkey)]
  of_not_blocks e hkey hdata := by rw [tripleDesDecrypt, if_neg (by omega), if_pos hdata]

/-! A data key, then a triple-DES operation on the payload (R182 to R184) -/

section Payload

variable {c : Config} {x : Res ByteVec} {ks : List Request} {e : Engine} {key p : ByteVec}
  {P : Work → Prop} {g : ByteVec → ByteVec → Engine → Res ByteVec}
  {f : ByteVec → ByteVec → ByteVec} {m : Nat}

/-- On whole blocks the operation is one more request. -/
theorem issues_payload (hg : IsTripleDes c g f) (hx : x.Issues c ks e key P)
    (hkey : key.length = 16) (hp : p.length % 8 = 0) :
    (x.andThen (g p)).Issues c (ks ++ [.tdes]) e (f (key24Of key) p) P := by
  refine hx.andThen fun e1 e1' hc hw => ?_
  rw [hg.of_blocks e1 hkey hp]
  exact issues_portRespond .tdes _ hc hw

theorem payload_ok_of_answered (hg : IsTripleDes dke g f) (hx : x.Issues dke ks e key P)
    (hkey : key.length = 16) (hp : p.length % 8 = 0) (h : Answered (ks.length + 1) e) :
    ∃ e1, x.andThen (g p) = .ok (f (key24Of key) p) e1 ∧
      e1.clear = ranEngine e (ks.count .des) (ks.count .tdes + 1) := by
  have hend := (issues_payload hg hx hkey hp).ok_of_answered (by rwa [List.length_append])
  rwa [List.count_append, List.count_append] at hend

/-- A failing payload request is the last one. -/
theorem payload_raise_of_fails (hg : IsTripleDes dke g f) (hx : x.Issues dke ks e key P)
    (hkey : key.length = 16) (hp : p.length % 8 = 0) (h : FailsAfter ks.length e) :
    ∃ e1, x.andThen (g p) = .raise .cipherFailure e1 ∧
      e1.clear = ranEngine e (ks.count .des) (ks.count .tdes + 1) := by
  have hlen : (ks ++ [Request.tdes]).length = ks.length + 1 := List.length_append
  have hend := (issues_payload hg hx hkey hp).raise_of_fails (by omega) h
  rwa [← hlen, List.take_length, List.count_append, List.count_append] at hend

/-- A request that fails while the data key is made ends the command, whatever the payload. -/
theorem payload_raise_of_key_fails (g : ByteVec → ByteVec → Engine → Res ByteVec) (p : ByteVec)
    (hx : x.Issues dke ks e key P) (hm : m < ks.length) (h : FailsAfter m e) :
    ∃ e1, x.andThen (g p) = .raise .cipherFailure e1 ∧
      e1.clear = ranEngine e ((ks.take (m + 1)).count .des) ((ks.take (m + 1)).count .tdes) := by
  obtain ⟨e1, rfl, hran⟩ := hx.raise_of_fails hm h
  exact ⟨e1, rfl, hran⟩

/-- A payload not of whole blocks is seen once the data key is made. -/
theorem payload_raise_of_not_blocks (hg : IsTripleDes dke g f) (hx : x.Issues dke ks e key P)
    (hkey : key.length = 16) (hp : p.length % 8 ≠ 0) (h : Answered ks.length e) :
    ∃ e1, x.andThen (g p) = .raise .invalidBlockLength e1 ∧
      e1.clear = ranEngine e (ks.count .des) (ks.count .tdes) := by
  obtain ⟨e1, rfl, hran⟩ := hx.ok_of_answered h
  exact ⟨e1, hg.of_not_blocks e1 hkey hp, hran⟩

end Payload

/-! The workflow's data key (R181) -/

theorem length_key24Of {key : ByteVec} (h : key.length = 16) : (key24Of key).length = 24 := by
  rw [← expandKey_eq_key24Of (.inl h), length_expandKey (.inl h)]

theorem length_pekVariantOf {c : Cipher} (hlaw : c.Lawful) {key : ByteVec}
    (hkey : key.length = 16) : (pekVariantOf c key).length = 16 := by
  have hpin : (pinKeyOf key).length = 16 := (length_pinKeyOf key).trans hkey
  have hhalf (d : ByteVec) (hd : d.length = 8) :
      (c.tdesCbcE (key24Of (pinKeyOf key)) d).length = 8 := by
    rw [hlaw.tdesCbcE_length _ _ (length_key24Of hpin) (by rw [hd]), hd]
  rw [pekVariantOf, List.length_append, hhalf _ (by simp [hpin]), hhalf _ (by simp [hpin])]

section DataKey

variable {c : Config} {ksn ipek : ByteVec} {e e' : Engine} {P : Work → Prop}

theorem length_basePekOf (hlaw : c.cipher.Lawful) (hksn : ksn.length = 10)
    (hipek : ipek.length = 16) : (basePekOf c.cipher ipek ksn).length = 16 :=
  length_updateOf hlaw hipek (by rw [List.length_drop, hksn])

theorem length_dataKeyOf (hlaw : c.cipher.Lawful) (hksn : ksn.length = 10)
    (hipek : ipek.length = 16) : (dataKeyOf c.cipher ksn ipek).length = 16 :=
  length_pekVariantOf hlaw (length_basePekOf hlaw hksn hipek)

/-- The base-key construction's two requests, then those of the variant construction. -/
theorem issues_workflowDataKey (hread : c.ksnModReading = .a) (hlaw : c.cipher.Lawful)
    (hksn : ksn.length = 10) (hipek : ipek.length = 16) (hc : e.clear = e'.clear) (hw : P e.work) :
    (workflowDataKey c ksn ipek e).Issues c [.des, .des, .tdes, .tdes] e'
      (dataKeyOf c.cipher ksn ipek) P :=
  (issues_basePek hread hipek hksn hc hw).andThen fun _ _ hc1 hw1 =>
    issues_pekWithVariant (length_basePekOf hlaw hksn hipek) hc1 hw1

theorem workflowDataKey_of_basePekHalf_raise {err : Err}
    (h : basePekHalf c ipek ksn e = .raise err e') :
    workflowDataKey c ksn ipek e = .raise err e' := by
  rw [workflowDataKey, basePek_of_basePekHalf_raise h, andThen_raise]

end DataKey

/-! ENCD and DECD (R182, R183) -/

/-- A command that applies a triple-DES operation to the payload, under the workflow's data key,
follows the rule ENCD and DECD share. -/
theorem workflowRule_of_isTripleDes {mk : VIdx → VIdx → Instr} {op : Byte}
    {g : ByteVec → ByteVec → Engine → Res ByteVec} {f : ByteVec → ByteVec → ByteVec}
    (hop : ∀ va vb, (fieldsSpec (mk va vb)).op = op) (hg : IsTripleDes dke g f)
    (hexec : ∀ va vb s, exec (mk va vb) s = .next
      (finishP s ((workflowDataKey dke (s.vval va) (s.vval vb) s.eng).andThen (g s.pval)))) :
    WorkflowRule mk op f := by
  intro va vb s
  rw [hexec]
  refine ⟨opIs_of_fieldsSpec (hop va vb), fun hipek => ?_, fun hipek hksn => ?_,
    fun hipek hksn => ?_⟩
  · rw [workflowDataKey_of_basePekHalf_raise (basePekHalf_of_key_length dke _ _ hipek)]
    exact congrArg Host.Outcome.next
      (finishP_eq_afterAbort_of_raise (andThen_raise _ _ _) (ranEngine_zero s.eng).symm)
  · rw [workflowDataKey_of_basePekHalf_raise (basePekHalf_of_ksn_length dke _ hipek hksn)]
    exact congrArg Host.Outcome.next
      (finishP_eq_afterAbort_of_raise (andThen_raise _ _ _) (ranEngine_zero s.eng).symm)
  · have hkey := length_dataKeyOf dke_cipher_lawful hksn hipek
    have hissues := issues_workflowDataKey (c := dke) (e := s.eng) (P := fun _ => True) rfl
      dke_cipher_lawful hksn hipek rfl trivial
    refine ⟨fun m hm h => ?_, fun hp h => ?_, fun hp h => ?_, fun hp h => ?_⟩
    · obtain ⟨e1, hend, hran⟩ := payload_raise_of_key_fails g s.pval hissues hm h
      have hcounts : ∀ m < 4,
          ([.des, .des, .tdes, .tdes].take (m + 1)).count Request.des = min (m + 1) 2 ∧
          ([.des, .des, .tdes, .tdes].take (m + 1)).count Request.tdes = m - 1 := by decide
      obtain ⟨hdes, htdes⟩ := hcounts m hm
      rw [hdes, htdes] at hran
      exact congrArg Host.Outcome.next (finishP_eq_afterAbort_of_raise hend hran)
    · obtain ⟨e1, hend, hran⟩ := payload_raise_of_not_blocks hg hissues hkey hp h
      exact congrArg Host.Outcome.next (finishP_eq_afterAbort_of_raise hend hran)
    · obtain ⟨e1, hend, hran⟩ := payload_raise_of_fails hg hissues hkey hp h
      exact congrArg Host.Outcome.next (finishP_eq_afterAbort_of_raise hend hran)
    · obtain ⟨e1, hend, hran⟩ := payload_ok_of_answered hg hissues hkey hp h
      exact congrArg Host.Outcome.next (finishP_eq_afterP_of_ok hend hran)

/-- Settles O43: ENCD is triple-DES encryption under the workflow's data key, here of reading A
(log 6) and with the reference cipher (log 4). -/
theorem encdResult : Obligations.EncdResult :=
  workflowRule_of_isTripleDes (fun _ _ => rfl) (isTripleDes_encrypt dke) fun _ _ _ => rfl

/-- Settles O44: DECD is triple-DES decryption under the same data key (reading A, log 6; reference
cipher, log 4). -/
theorem decdResult : Obligations.DecdResult :=
  workflowRule_of_isTripleDes (fun _ _ => rfl) (isTripleDes_decrypt dke) fun _ _ _ => rfl

/-! DECTRK (R184) -/

/-- The data key of DECTRK: the no-variant key of the derived key. -/
def trackDataKey (c : Config) (ksn bdk : ByteVec) (e : Engine) : Res ByteVec :=
  (deriveKey c ksn bdk e).andThen pekNoVariant

theorem decryptTrackBody_eq_andThen (c : Config) (ksn bdk data : ByteVec) (e : Engine) :
    decryptTrackBody c ksn bdk data e =
      (trackDataKey c ksn bdk e).andThen (tripleDesDecrypt c data) := by
  rw [decryptTrackBody, trackDataKey]
  cases deriveKey c ksn bdk e <;> rfl

theorem length_derivedOf {c : Cipher} (hlaw : c.Lawful) {ksn bdk : ByteVec}
    (hksn : ksn.length = 10) (hbdk : bdk.length = 16 ∨ bdk.length = 24) :
    (derivedOf c ksn bdk).length = 16 := by
  rw [derivedOf_eq_foldl]
  exact List.foldlRecOn (motive := fun key : ByteVec => key.length = 16) _ _
    (length_ipekOf hlaw hksn hbdk) fun key hkey k _ => length_bitUpdate hlaw ksn k hkey

/-- The no-variant construction adds no request to those of the derivation. -/
theorem issues_trackDataKey {c : Config} (hlaw : c.cipher.Lawful) {ksn bdk : ByteVec} (e : Engine)
    (hksn : ksn.length = 10) (hbdk : bdk.length = 16 ∨ bdk.length = 24) :
    (trackDataKey c ksn bdk e).Issues c (deriveRequests ksn) e
      (pinKeyOf (derivedOf c.cipher ksn bdk)) (fun _ => True) := by
  rw [trackDataKey, ← List.append_nil (deriveRequests ksn)]
  refine (issues_deriveKey hlaw hksn hbdk rfl).andThen fun e1 e1' hc hw => ?_
  rw [pekNoVariant_of_length e1 (length_derivedOf hlaw hksn hbdk)]
  exact issues_ok hc hw

/-- An error of any kind, after this many requests, ends DECTRK with code 6. -/
theorem exec_dectrk_of_raise {va vb : VIdx} {s : State} {err : Err} {e : Engine} {ns nt : Nat}
    (h : (trackDataKey dke (s.vval va) (s.vval vb) s.eng).andThen (tripleDesDecrypt dke s.pval) =
      .raise err e) (hran : e.clear = ranEngine s.eng ns nt) :
    exec (.dectrk va vb) s = .next (afterAbort s 6 ns nt) := by
  rw [← decryptTrackBody_eq_andThen] at h
  exact congrArg Host.Outcome.next (finishP_eq_afterAbort_of_raise (congrArg Res.mask h) hran)

theorem exec_dectrk_of_ok {va vb : VIdx} {s : State} {r : ByteVec} {e : Engine} {ns nt : Nat}
    (h : (trackDataKey dke (s.vval va) (s.vval vb) s.eng).andThen (tripleDesDecrypt dke s.pval) =
      .ok r e) (hran : e.clear = ranEngine s.eng ns nt) :
    exec (.dectrk va vb) s = .next (afterP s r ns nt) := by
  rw [← decryptTrackBody_eq_andThen] at h
  exact congrArg Host.Outcome.next (finishP_eq_afterP_of_ok (congrArg Res.mask h) hran)

/-- Settles O45: the derivation's errors and requests, then the payload's, all errors masked. -/
theorem dectrkResult : Obligations.DectrkResult := by
  intro va vb s
  refine ⟨opIs_of_fieldsSpec rfl, fun hksn => ?_, fun hksn h16 h24 => ?_, fun hksn hbdk => ?_⟩
  · refine exec_dectrk_of_raise (err := .lengthMismatch) ?_ (ranEngine_zero s.eng).symm
    rw [trackDataKey, deriveKey, if_pos hksn, andThen_raise, andThen_raise]
  · refine exec_dectrk_of_raise (err := .invalidKeyLength) (e := loadCounter (s.vval va) s.eng) ?_
      (ranEngine_zero s.eng).symm
    rw [trackDataKey, deriveKey_of_bdk_length dke _ hksn h16 h24, andThen_raise, andThen_raise]
  · have hkey : (pinKeyOf (derivedOf dke.cipher (s.vval va) (s.vval vb))).length = 16 :=
      (length_pinKeyOf _).trans (length_derivedOf dke_cipher_lawful hksn hbdk)
    have hissues := issues_trackDataKey dke_cipher_lawful s.eng hksn hbdk
    have hlen := length_deriveRequests (s.vval va)
    obtain ⟨hdes, htdes⟩ := count_deriveRequests (s.vval va)
    have hdec := isTripleDes_decrypt dke
    refine ⟨fun h => ?_, fun m h1 hm h => ?_, fun hp h => ?_, fun hp h => ?_, fun hp h => ?_⟩
    · obtain ⟨e1, hend, hran⟩ := payload_raise_of_key_fails (tripleDesDecrypt dke) s.pval hissues
        (by omega) h
      exact exec_dectrk_of_raise hend hran
    · obtain ⟨e1, hend, hran⟩ := payload_raise_of_key_fails (tripleDesDecrypt dke) s.pval hissues
        (by omega) h
      obtain ⟨hdes, htdes⟩ := count_take_deriveRequests h1 hm
      rw [hdes, htdes] at hran
      exact exec_dectrk_of_raise hend hran
    · obtain ⟨e1, hend, hran⟩ := payload_raise_of_not_blocks hdec hissues hkey hp (by rwa [hlen])
      rw [hdes, htdes] at hran
      exact exec_dectrk_of_raise hend hran
    · obtain ⟨e1, hend, hran⟩ := payload_raise_of_fails hdec hissues hkey hp (by rwa [hlen])
      rw [hdes, htdes] at hran
      exact exec_dectrk_of_raise hend hran
    · obtain ⟨e1, hend, hran⟩ := payload_ok_of_answered hdec hissues hkey hp
        (by rwa [hlen, Nat.add_right_comm])
      rw [hdes, htdes] at hran
      exact exec_dectrk_of_ok hend hran

/-! The round trip (R185) -/

section RoundTrip

variable {c : Config} {ksn ipek p r : ByteVec} {e e' : Engine}

theorem basePekHalf_ok_lengths {key : ByteVec} (h : basePekHalf c key ksn e = .ok r e') :
    key.length = 16 ∧ ksn.length = 10 := by
  have hkey : key.length = 16 := by
    by_contra hne
    rw [basePekHalf_of_key_length c ksn e hne] at h
    cases h
  refine ⟨hkey, ?_⟩
  by_contra hne
  rw [basePekHalf_of_ksn_length c e hkey hne] at h
  cases h

theorem encryptData_ok_lengths (h : encryptData c ksn ipek p e = .ok r e') :
    ipek.length = 16 ∧ ksn.length = 10 := by
  obtain ⟨key, e1, hkey, -⟩ := andThen_eq_ok_iff.mp h
  obtain ⟨pek, e2, hpek, -⟩ := andThen_eq_ok_iff.mp hkey
  obtain ⟨first, e3, hfirst, -⟩ := andThen_eq_ok_iff.mp hpek
  exact basePekHalf_ok_lengths hfirst

/-- A completed encryption had whole blocks and is the cipher's under the data key. -/
theorem encryptData_ok (hread : c.ksnModReading = .a) (hlaw : c.cipher.Lawful)
    (h : encryptData c ksn ipek p e = .ok r e') : p.length % 8 = 0 ∧
      r = c.cipher.tdesCbcE (key24Of (dataKeyOf c.cipher ksn ipek)) p := by
  obtain ⟨hipek, hksn⟩ := encryptData_ok_lengths h
  obtain ⟨key, e1, hkey, henc⟩ := andThen_eq_ok_iff.mp h
  have hissues := issues_workflowDataKey (e := e) (P := fun _ => True) hread hlaw hksn hipek rfl
    trivial
  rw [hkey] at hissues
  obtain rfl := hissues.eq_of_ok
  obtain ⟨hlen, hp, rfl, -⟩ := tripleDesEncrypt_ok henc
  rw [expandKey_eq_key24Of hlen]
  exact ⟨hp, rfl⟩

/-- What a completed encryption answers has the plaintext's length, and the cipher turns it back
under the same data key. -/
theorem encryptData_ok_inverse (hread : c.ksnModReading = .a) (hlaw : c.cipher.Lawful)
    (h : encryptData c ksn ipek p e = .ok r e') : p.length % 8 = 0 ∧ r.length = p.length ∧
      c.cipher.tdesCbcD (key24Of (dataKeyOf c.cipher ksn ipek)) r = p := by
  obtain ⟨hipek, hksn⟩ := encryptData_ok_lengths h
  obtain ⟨hp, rfl⟩ := encryptData_ok hread hlaw h
  have hkey := length_key24Of (length_dataKeyOf hlaw hksn hipek)
  exact ⟨hp, hlaw.tdesCbcE_length _ _ hkey hp, hlaw.tdesCbcD_tdesCbcE _ _ hkey hp⟩

end RoundTrip

/-- Settles O47: DECD meets the data key and the ciphertext ENCD left. -/
theorem encdDecdRoundTrip : Obligations.EncdDecdRoundTrip := by
  intro va vb s t u ht h0 hva hvb hp hanswered
  cases ht
  obtain ⟨r, e, hok⟩ := finishP_errcode_eq_zero h0
  obtain ⟨hipek, hksn⟩ := encryptData_ok_lengths hok
  obtain ⟨hblocks, hlen, hinv⟩ := encryptData_ok_inverse rfl dke_cipher_lawful hok
  rw [formSVV, hok] at hva hvb hp
  replace hva : u.vval va = s.vval va := hva
  replace hvb : u.vval vb = s.vval vb := hvb
  have hpval : u.pval = r := by
    rw [State.pval, hp]
    exact value_ofBytes pcap r (hlen.trans_le (length_pval_le s))
  obtain ⟨-, -, -, hdecd⟩ := decdResult va vb u
  obtain ⟨-, -, -, hdone⟩ := hdecd (by rwa [hvb]) (by rwa [hva])
  refine ⟨_, hdone (by rw [hpval, hlen, hblocks]) hanswered, rfl, ?_⟩
  rw [hva, hvb, hpval, hinv]
  exact value_ofBytes pcap s.pval (length_pval_le s)

/-! Either reading of `ksnMod` (43_key_construction.md R161): a construction under one reading is
that under reading A on a KSN made to have the same `ksnMod`. -/

/-- The same parameters under reading A. -/
def underReadingA (c : Config) : Config := { c with ksnModReading := .a }

/-- A KSN whose `ksnMod` under reading A is the given KSN's under the reading `r`. -/
def ksnForA (r : KsnModReading) (ksn : ByteVec) : ByteVec := fillBytes 2 0 ++ ksnMod r ksn

theorem length_ksnMod (r : KsnModReading) {ksn : ByteVec} (h : ksn.length = 10) :
    (ksnMod r ksn).length = 8 := by
  cases r with
  | a => simp [ksnMod, h]
  | b => simp [ksnMod, h]

theorem length_ksnForA (r : KsnModReading) {ksn : ByteVec} (h : ksn.length = 10) :
    (ksnForA r ksn).length = 10 := by
  rw [ksnForA, List.length_append, length_fillBytes, length_ksnMod r h]

theorem ksnMod_a_ksnForA (r : KsnModReading) {ksn : ByteVec} (h : ksn.length = 10) :
    ksnMod .a (ksnForA r ksn) = ksnMod r ksn := by
  rw [ksnMod_a_eq_drop (length_ksnForA r h), ksnForA]
  exact List.drop_left' (length_fillBytes 2 0)

section Readings

variable {ksn : ByteVec} (c : Config) (hksn : ksn.length = 10)

include hksn

theorem basePekHalf_readingA (key : ByteVec) (e : Engine) : basePekHalf c key ksn e =
    basePekHalf (underReadingA c) key (ksnForA c.ksnModReading ksn) e := by
  have hmod : ksnMod (underReadingA c).ksnModReading (ksnForA c.ksnModReading ksn) =
      ksnMod c.ksnModReading ksn := ksnMod_a_ksnForA _ hksn
  simp only [basePekHalf, hksn, length_ksnForA _ hksn, hmod]
  rfl

theorem workflowDataKey_readingA (ipek : ByteVec) (e : Engine) : workflowDataKey c ksn ipek e =
    workflowDataKey (underReadingA c) (ksnForA c.ksnModReading ksn) ipek e := by
  simp only [workflowDataKey, basePek, basePekHalf_readingA c hksn]
  rfl

theorem encryptData_readingA (ipek p : ByteVec) (e : Engine) : encryptData c ksn ipek p e =
    encryptData (underReadingA c) (ksnForA c.ksnModReading ksn) ipek p e := by
  rw [encryptData, workflowDataKey_readingA c hksn]
  rfl

theorem decryptData_readingA (ipek p : ByteVec) (e : Engine) : decryptData c ksn ipek p e =
    decryptData (underReadingA c) (ksnForA c.ksnModReading ksn) ipek p e := by
  rw [decryptData, workflowDataKey_readingA c hksn]
  rfl

end Readings

/-- The round trip under reading A, for a cipher unit that never fails. -/
theorem decryptData_of_encryptData {c : Config} {ksn ipek p r : ByteVec} {e e' : Engine}
    (hread : c.ksnModReading = .a) (hlaw : c.cipher.Lawful) (hfail : c.cipherMayFail = false)
    (h : encryptData c ksn ipek p e = .ok r e') (e1 : Engine) :
    ∃ e2, decryptData c ksn ipek r e1 = .ok p e2 := by
  obtain ⟨hipek, hksn⟩ := encryptData_ok_lengths h
  obtain ⟨hblocks, hlen, hinv⟩ := encryptData_ok_inverse hread hlaw h
  have hkey := issues_workflowDataKey (e := e1) (P := fun _ => True) hread hlaw hksn hipek rfl
    trivial
  have hissues := issues_payload (isTripleDes_decrypt c) hkey (length_dataKeyOf hlaw hksn hipek)
    (hlen ▸ hblocks)
  rw [hinv] at hissues
  exact ok_of_issues_of_never_fails hfail hissues

/-- Settles O48: the round trip under reading A, and any reading as reading A. -/
theorem roundTripForEveryCipher : Obligations.RoundTripForEveryCipher := by
  intro c ksn ipek p r e e' e1 hlaw hfail h
  obtain ⟨-, hksn⟩ := encryptData_ok_lengths h
  rw [encryptData_readingA c hksn] at h
  rw [decryptData_readingA c hksn]
  exact decryptData_of_encryptData (c := underReadingA c) rfl hlaw hfail h e1

end Sys2Proof.Machine
end

section
/-! Proofs about 45_housekeeping.md: ZEROIZE (R201) and CLRCNT (R202). -/

namespace Sys2Proof.Machine

/-! The two commands complete (R200) -/

/-- Writing the empty vector leaves the buffer as reset does: length zero, every byte zero (R201). -/
theorem ofBytes_nil (cap : Nat) : Buf.ofBytes cap [] = Buf.empty cap := by
  have hdata : padData cap [] = Vector.replicate cap 0 :=
    Vector.toList_inj.mp (by simp [toList_padData])
  rw [Buf.ofBytes, hdata]
  rfl

/-- Erasing puts the vector registers and the payload back to their reset values (R38). -/
theorem eraseBuffers_eq_reset (s : State) :
    eraseBuffers s = { s with v := State.reset.v, p := State.reset.p } := by
  rw [eraseBuffers, ofBytes_nil, ofBytes_nil]
  rfl

theorem exec_zeroize (s : State) : exec .zeroize s = .next (complete (eraseBuffers s)) := rfl

theorem exec_clrcnt (s : State) : exec .clrcnt s = .next (complete (clearCounters s)) := rfl

/-- Settles O53: the erased buffers are those of reset, and no request was issued. -/
theorem zeroizeResult : Obligations.ZeroizeResult := by
  intro s
  refine ⟨opIs_of_fieldsSpec rfl, ?_⟩
  rw [exec_zeroize, eraseBuffers_eq_reset, ranEngine_zero]
  rfl

/-- Settles O54: completing clears the error code and the working registers, and the command itself
the two counters. -/
theorem clrcntResult : Obligations.ClrcntResult := by
  intro s
  refine ⟨opIs_of_fieldsSpec rfl, ?_⟩
  rw [exec_clrcnt, complete, clearCounters_eng]
  rfl

end Sys2Proof.Machine
end

section
/-! Proofs about 46_des_reference.md: decryption inverts encryption (R216), the parity bits of a key
do not matter (R213), and the check vectors (R219). -/

namespace Sys2Proof.Machine

/-- Settles O50: the final permutation undoes the initial one, and the rounds run backwards under
the reversed round keys. -/
theorem desDecryptionInvertsEncryption : Obligations.DesDecryptionInvertsEncryption := desDec_desEnc

/-! The parity bits (R213) -/

/-- A selection depends only on the bits its table names. -/
theorem desSelect_congr {n m : Nat} {table : List Nat} {x y : BitVec n} (ht : table.length = m)
    (h : ∀ i ∈ table, x.getLsbD (n - i) = y.getLsbD (n - i)) :
    desSelect m table x = desSelect m table y := by
  refine BitVec.eq_of_getLsbD_eq fun p hp => ?_
  have hlt : p < table.reverse.length := by rwa [List.length_reverse, ht]
  have hmem : table.reverse.getD p 0 ∈ table := by
    rw [List.getD_eq_getElem _ _ hlt]
    exact List.mem_reverse.mp (List.getElem_mem hlt)
  rw [getLsbD_desSelect x ht hp, getLsbD_desSelect y ht hp, h _ hmem]

/-- Permuted choice 1 names bits of the key, counted from 1, and none of bits 8, 16, …, 64. -/
theorem desPC1_skips_parity : ∀ i ∈ desPC1, 0 < i ∧ i ≤ 64 ∧ (i - 1) % 8 ≠ 7 := by decide

/-- Two keys that agree on all but their parity bits (the hypothesis of O51) have the same round
keys. -/
theorem desRoundKeys_eq_of_agree {k k' : BitVec 64}
    (h : ∀ j < 64, j % 8 ≠ 7 → k.getMsbD j = k'.getMsbD j) : desRoundKeys k = desRoundKeys k' := by
  have hpc1 : desSelect 56 desPC1 k = desSelect 56 desPC1 k' := by
    refine desSelect_congr (by decide) fun i hi => ?_
    obtain ⟨hpos, hle, hpar⟩ := desPC1_skips_parity i hi
    have hbit := h (i - 1) (by omega) hpar
    have hplace : 64 - 1 - (i - 1) = 64 - i := by omega
    have hlt : i - 1 < 64 := by omega
    simpa [BitVec.getMsbD, hlt, hplace] using hbit
  rw [desRoundKeys, desRoundKeys, hpc1]

/-- Settles O51: a block depends on the key through its round keys only. -/
theorem desIgnoresParityBits : Obligations.DesIgnoresParityBits := by
  intro k k' b h
  have hkeys := desRoundKeys_eq_of_agree h
  exact ⟨by rw [desEnc, desEnc, hkeys], by rw [desDec, desDec, hkeys]⟩

/-! The check vectors (R219) -/

/-- The first vector, from which the vectors for the key with other parity bits and for decryption
follow. -/
theorem desEnc_firstVector :
    desEnc 0x133457799BBCDFF1 0x0123456789ABCDEF = 0x85E813540F0AB405 := by decide +kernel

/-- The same key with the parity bits left 0. -/
theorem desEnc_withoutParity :
    desEnc 0x123456789ABCDEF0 0x0123456789ABCDEF = 0x85E813540F0AB405 := by
  have hagree : ∀ j < 64, j % 8 ≠ 7 → (0x123456789ABCDEF0 : BitVec 64).getMsbD j =
      (0x133457799BBCDFF1 : BitVec 64).getMsbD j := by decide +kernel
  exact (desIgnoresParityBits _ _ _ hagree).1.trans desEnc_firstVector

theorem desDec_firstVector :
    desDec 0x133457799BBCDFF1 0x85E813540F0AB405 = 0x0123456789ABCDEF := by
  rw [← desEnc_firstVector, desDec_desEnc]

theorem refTdesCbcE_vector :
    refTdesCbcE (encBytes 24 0x0123456789ABCDEFFEDCBA98765432100123456789ABCDEF) (encBytes 16 0) =
      encBytes 16 0x08D7B4FB629D08850A121DC33DFB5947 := by decide +kernel

theorem refTdesCbcD_vector :
    refTdesCbcD (encBytes 24 0x0123456789ABCDEFFEDCBA98765432100123456789ABCDEF)
        (encBytes 16 0x6AC292FAA1315B4D858AB3A3D7D5933A) =
      encBytes 16 0xFFFF9876543210E08D4C18AFD9369020 := by decide +kernel

/-- Settles O52: two vectors follow from O50 and O51, the others are evaluated. -/
theorem desCheckVectors : Obligations.DesCheckVectors :=
  ⟨desEnc_firstVector, desEnc_withoutParity, desDec_firstVector, by decide +kernel,
    by decide +kernel, by decide +kernel, by decide +kernel, refTdesCbcE_vector,
    refTdesCbcD_vector, by decide +kernel, by decide +kernel⟩

end Sys2Proof.Machine
end

section
/-! Proofs about 60_exceptions.md: the codes (R231), the abort (R232), and the masking of DECTRK
(R234). -/

namespace Sys2Proof.Machine

/-! The codes and the masked command (R231, R234) -/

/-- Settles O19: an abort reports the error's word and sets its bit; both are evaluated for each
error. -/
theorem errorCodesAreTheTable : Obligations.ErrorCodesAreTheTable := by
  intro s
  simp only [abort_errcode, abort_esticky, complete_errcode, complete_esticky]
  simp [errWord, stickyBit, errCode]

/-- Settles O46: the payload is written on completion only, and a masked error is `DecodeFailure`. -/
theorem dectrkMasksEveryError : Obligations.DectrkMasksEveryError := by
  intro va vb s t h
  cases h
  rw [formSVV]
  obtain ⟨r, e, -, hend⟩ | ⟨err, e, hraise, hend⟩ :=
    finishP_cases s (decryptTrack dke (s.vval va) (s.vval vb) s.pval s.eng)
  · rw [hend]
    exact .inl ⟨rfl, rfl⟩
  · rw [hend, mask_eq_raise hraise]
    exact .inr ⟨rfl, rfl, rfl⟩

/-! The engine in the course of a command (R232, 41_cipher_port.md R127) -/

/-- The engine as a computation leaves it, completed or not. -/
def Res.engine {α : Type} : Res α → Engine
  | .ok _ e => e
  | .raise _ e => e

/-- Outside the working registers, `e` is `e0` after some requests. -/
def Engine.RanFrom (e e0 : Engine) : Prop := ∃ ns nt, e.clear = ranEngine e0 ns nt

theorem ranFrom_self (e : Engine) : e.RanFrom e := ⟨0, 0, (ranEngine_zero e).symm⟩

section Engines

variable {α β : Type} {e e0 : Engine}

/-- Requests after requests are counted together. -/
theorem ranEngine_ranEngine (e : Engine) (ns nt ns' nt' : Nat) :
    ranEngine (ranEngine e ns nt) ns' nt' = ranEngine e (ns + ns') (nt + nt') := by
  simp [ranEngine, BitVec.ofNat_add, BitVec.add_assoc, Nat.add_add_add_comm]

/-- One more request counts once and uses one answer of the environment. -/
theorem Engine.RanFrom.spend (k : Request) (h : e.RanFrom e0) : (k.spend e).RanFrom e0 := by
  obtain ⟨ns, nt, hran⟩ := h
  refine ⟨ns + [k].count .des, nt + [k].count .tdes, ?_⟩
  calc (k.spend e).clear
    _ = ranEngine (k.spend e) 0 0 := (ranEngine_zero _).symm
    _ = ranEngine e.clear ([k].count .des) ([k].count .tdes) := ranEngine_spend k [] e
    _ = ranEngine e0 (ns + [k].count .des) (nt + [k].count .tdes) := by
      rw [hran, ranEngine_ranEngine]

/-- A request not answered `fail` is answered. -/
theorem answered_or_fails (e : Engine) : Answered 1 e ∨ FailsAfter 0 e := by
  cases h : e.port with
  | nil => exact .inl (by simp [Answered, h])
  | cons a rest => cases a <;> simp [Answered, FailsAfter, h]

/-- A request is spent whether it is answered or fails. -/
theorem engine_portRespond (k : Request) (r : ByteVec) (e : Engine) :
    (portRespond dke r (k.count e)).engine = k.spend e := by
  obtain h | h := answered_or_fails e
  · rw [portRespond_count_of_answered k r h, Res.engine]
  · rw [portRespond_count_of_fails k r h, Res.engine]

theorem ranFrom_portRespond (k : Request) (r : ByteVec) (h : e.RanFrom e0) :
    (portRespond dke r (k.count e)).engine.RanFrom e0 :=
  engine_portRespond k r e ▸ h.spend k

/-- A sequence issues requests only in its parts. -/
theorem ranFrom_andThen {x : Res α} {f : α → Engine → Res β} (hx : x.engine.RanFrom e0)
    (hf : ∀ a e1, e1.RanFrom e0 → (f a e1).engine.RanFrom e0) :
    (x.andThen f).engine.RanFrom e0 := by
  cases x with
  | ok a e1 => exact hf a e1 hx
  | raise err e1 => exact hx

/-- A test that raises issues no request. -/
theorem ranFrom_guard {p : Prop} [Decidable p] (err : Err) {x : Res α} (h : e.RanFrom e0)
    (hx : x.engine.RanFrom e0) : (if p then Res.raise err e else x).engine.RanFrom e0 := by
  split
  · exact h
  · exact hx

theorem ranFrom_mask {x : Res α} (hx : x.engine.RanFrom e0) : x.mask.engine.RanFrom e0 := by
  cases x with
  | ok a e1 => exact hx
  | raise err e1 => exact hx

/-! The byte-vector unit issues no request (40_bytevector_alu.md R100) -/

theorem ranFrom_elementwise (f : ByteVec → ByteVec → ByteVec) (a b : ByteVec) (h : e.RanFrom e0) :
    (elementwise f a b e).engine.RanFrom e0 := ranFrom_guard _ h h

theorem ranFrom_subrange (first last : Nat) (a : ByteVec) (h : e.RanFrom e0) :
    (subrange first last a e).engine.RanFrom e0 := ranFrom_guard _ h h

theorem ranFrom_concat (a b : ByteVec) (h : e.RanFrom e0) : (concat a b e).engine.RanFrom e0 :=
  ranFrom_guard _ h h

theorem ranFrom_padLeft (length : Nat) (fill : FillByte) (a : ByteVec) (h : e.RanFrom e0) :
    (padLeft length fill a e).engine.RanFrom e0 := ranFrom_guard _ h (ranFrom_guard _ h h)

/-! The adapter issues at most one request (41_cipher_port.md R122 to R124) -/

theorem ranFrom_tripleDesEncrypt (data key : ByteVec) (h : e.RanFrom e0) :
    (tripleDesEncrypt dke data key e).engine.RanFrom e0 :=
  ranFrom_guard _ h (ranFrom_guard _ h (ranFrom_portRespond .tdes _ h))

theorem ranFrom_tripleDesDecrypt (data key : ByteVec) (h : e.RanFrom e0) :
    (tripleDesDecrypt dke data key e).engine.RanFrom e0 :=
  ranFrom_guard _ h (ranFrom_guard _ h (ranFrom_portRespond .tdes _ h))

theorem ranFrom_singleDesEncrypt (block key : ByteVec) (h : e.RanFrom e0) :
    (singleDesEncrypt dke block key e).engine.RanFrom e0 :=
  ranFrom_guard _ h (ranFrom_guard _ h (ranFrom_portRespond .des _ h))

/-! Key derivation (42_key_derivation.md R143, R146). The moves between working registers change
neither a counter nor the answers to come, so the hypothesis on the engine before a move serves for
the engine after it. -/

theorem ranFrom_generateIpek (ksn bdk : ByteVec) (h : e.RanFrom e0) :
    (generateIpek dke ksn bdk e).engine.RanFrom e0 :=
  ranFrom_guard _ h <| ranFrom_andThen (ranFrom_tripleDesEncrypt _ _ h) fun _ _ h1 =>
    ranFrom_andThen (ranFrom_tripleDesEncrypt _ _ h1) fun _ _ h2 => h2

theorem ranFrom_updateReg2 (h : e.RanFrom e0) : (updateReg2 dke e).engine.RanFrom e0 :=
  ranFrom_andThen (ranFrom_singleDesEncrypt _ _ h) fun _ _ h1 => h1

theorem ranFrom_updateReg1 (h : e.RanFrom e0) : (updateReg1 dke e).engine.RanFrom e0 :=
  ranFrom_andThen (ranFrom_singleDesEncrypt _ _ h) fun _ _ h1 => h1

theorem ranFrom_keyUpdate (h : e.RanFrom e0) : (keyUpdate dke e).engine.RanFrom e0 :=
  ranFrom_andThen (ranFrom_updateReg2 (e := orMask e) h) fun _ e1 h1 =>
    ranFrom_andThen (ranFrom_updateReg1 (e := varyKey e1) h1) fun _ _ h2 => h2

theorem ranFrom_derivePass (h : e.RanFrom e0) : (derivePass dke e).engine.RanFrom e0 := by
  unfold derivePass
  split
  · exact h
  · exact ranFrom_andThen (ranFrom_keyUpdate h) fun _ _ h1 => h1

theorem ranFrom_deriveLoop (n : Nat) (h : e.RanFrom e0) :
    (deriveLoop dke n e).engine.RanFrom e0 := by
  induction n generalizing e with
  | zero => exact h
  | succ n ih =>
    unfold deriveLoop
    split
    · exact h
    · exact ranFrom_andThen (ranFrom_derivePass h) fun _ _ h1 => ih h1

theorem ranFrom_deriveKey (ksn bdk : ByteVec) (h : e.RanFrom e0) :
    (deriveKey dke ksn bdk e).engine.RanFrom e0 :=
  ranFrom_guard _ h <|
    ranFrom_andThen (ranFrom_generateIpek (e := loadCounter ksn e) _ _ h) fun _ _ h1 =>
      ranFrom_andThen (ranFrom_deriveLoop 64 h1) fun _ _ h2 => h2

/-! Key construction (43_key_construction.md R162 to R165) -/

theorem ranFrom_basePekHalf (key ksn : ByteVec) (h : e.RanFrom e0) :
    (basePekHalf dke key ksn e).engine.RanFrom e0 :=
  ranFrom_guard _ h <| ranFrom_guard _ h <|
    ranFrom_andThen (ranFrom_singleDesEncrypt _ _ h) fun _ _ h1 => h1

theorem ranFrom_basePek (key ksn : ByteVec) (h : e.RanFrom e0) :
    (basePek dke key ksn e).engine.RanFrom e0 :=
  ranFrom_andThen (ranFrom_basePekHalf _ _ h) fun _ _ h1 =>
    ranFrom_andThen (ranFrom_basePekHalf _ _ h1) fun _ _ h2 => h2

theorem ranFrom_pekWithVariant (key : ByteVec) (h : e.RanFrom e0) :
    (pekWithVariant dke key e).engine.RanFrom e0 :=
  ranFrom_guard _ h <| ranFrom_andThen (ranFrom_tripleDesEncrypt _ _ h) fun _ _ h1 =>
    ranFrom_andThen (ranFrom_tripleDesEncrypt _ _ h1) fun _ _ h2 => h2

theorem ranFrom_pekNoVariant (key : ByteVec) (h : e.RanFrom e0) :
    (pekNoVariant key e).engine.RanFrom e0 := ranFrom_guard _ h h

/-! The workflow (44_workflow.md R181 to R184) -/

theorem ranFrom_workflowDataKey (ksn ipek : ByteVec) (h : e.RanFrom e0) :
    (workflowDataKey dke ksn ipek e).engine.RanFrom e0 :=
  ranFrom_andThen (ranFrom_basePek _ _ h) fun _ _ h1 => ranFrom_pekWithVariant _ h1

theorem ranFrom_encryptData (ksn ipek p : ByteVec) (h : e.RanFrom e0) :
    (encryptData dke ksn ipek p e).engine.RanFrom e0 :=
  ranFrom_andThen (ranFrom_workflowDataKey _ _ h) fun _ _ h1 => ranFrom_tripleDesEncrypt _ _ h1

theorem ranFrom_decryptData (ksn ipek p : ByteVec) (h : e.RanFrom e0) :
    (decryptData dke ksn ipek p e).engine.RanFrom e0 :=
  ranFrom_andThen (ranFrom_workflowDataKey _ _ h) fun _ _ h1 => ranFrom_tripleDesDecrypt _ _ h1

theorem ranFrom_decryptTrack (ksn bdk p : ByteVec) (h : e.RanFrom e0) :
    (decryptTrack dke ksn bdk p e).engine.RanFrom e0 :=
  ranFrom_mask <| ranFrom_andThen (ranFrom_deriveKey _ _ h) fun _ _ h1 =>
    ranFrom_andThen (ranFrom_pekNoVariant _ h1) fun _ _ h2 => ranFrom_tripleDesDecrypt _ _ h2

end Engines

/-! The end of a command (R232) -/

/-- A command that took `s` to `t` completed, or aborted precisely. -/
def CompletedOrAborted (s t : State) : Prop :=
  t.errcode = 0 ∨ ∃ err ns nt, t = afterAbort s (errCode err) ns nt

theorem completedOrAborted_finishV {s : State} {x : Res ByteVec} (vd : VIdx)
    (hx : x.engine.RanFrom s.eng) : CompletedOrAborted s (finishV vd s x) := by
  cases x with
  | ok r e => exact .inl rfl
  | raise err e =>
    obtain ⟨ns, nt, hran⟩ := hx
    exact .inr ⟨err, ns, nt, finishV_raise_eq_afterAbort vd s err hran⟩

theorem completedOrAborted_finishP {s : State} {x : Res ByteVec} (hx : x.engine.RanFrom s.eng) :
    CompletedOrAborted s (finishP s x) := by
  cases x with
  | ok r e => exact .inl rfl
  | raise err e =>
    obtain ⟨ns, nt, hran⟩ := hx
    exact .inr ⟨err, ns, nt, finishP_eq_afterAbort_of_raise rfl hran⟩

/-- Every command completes or aborts precisely. -/
theorem exec_completedOrAborted (i : Instr) (s : State) :
    ∃ t, exec i s = .next t ∧ CompletedOrAborted s t := by
  have h := ranFrom_self s.eng
  cases i with
  | zeroize | clrcnt => exact ⟨_, rfl, .inl rfl⟩
  | vand vd | vor vd | vxor vd =>
    exact ⟨_, rfl, completedOrAborted_finishV vd (ranFrom_elementwise _ _ _ h)⟩
  | vsub vd => exact ⟨_, rfl, completedOrAborted_finishV vd (ranFrom_subrange _ _ _ h)⟩
  | vcat vd => exact ⟨_, rfl, completedOrAborted_finishV vd (ranFrom_concat _ _ h)⟩
  | vpadl vd => exact ⟨_, rfl, completedOrAborted_finishV vd (ranFrom_padLeft _ _ _ h)⟩
  | vshr vd => exact ⟨_, rfl, .inl rfl⟩
  | genipek vd => exact ⟨_, rfl, completedOrAborted_finishV vd (ranFrom_generateIpek _ _ h)⟩
  | derive vd => exact ⟨_, rfl, completedOrAborted_finishV vd (ranFrom_deriveKey _ _ h)⟩
  | bpekh vd => exact ⟨_, rfl, completedOrAborted_finishV vd (ranFrom_basePekHalf _ _ h)⟩
  | bpek vd => exact ⟨_, rfl, completedOrAborted_finishV vd (ranFrom_basePek _ _ h)⟩
  | pekv vd => exact ⟨_, rfl, completedOrAborted_finishV vd (ranFrom_pekWithVariant _ h)⟩
  | peknv vd => exact ⟨_, rfl, completedOrAborted_finishV vd (ranFrom_pekNoVariant _ h)⟩
  | encd => exact ⟨_, rfl, completedOrAborted_finishP (ranFrom_encryptData _ _ _ h)⟩
  | decd => exact ⟨_, rfl, completedOrAborted_finishP (ranFrom_decryptData _ _ _ h)⟩
  | dectrk => exact ⟨_, rfl, completedOrAborted_finishP (ranFrom_decryptTrack _ _ _ h)⟩

/-- Every command word, legal or not, completes or aborts precisely (30_encoding.md R85). -/
theorem step_commandWrite_completedOrAborted {s : State} {w : Word} {rest : List HostInput}
    (hp : s.pending = commandWrite w :: rest) : ∃ t, step s = .next t ∧
      CompletedOrAborted { s with pending := rest, cmd := w, bus := .done } t := by
  cases hw : decode w with
  | ok i =>
    rw [stepRunsTheDecodedCommand s w i rest hp hw]
    exact exec_completedOrAborted i _
  | error d => exact ⟨_, illegalWordAborts s w d rest hp hw, .inr ⟨.illegalCommand, 0, 0, rfl⟩⟩

/-- Settles O16: a command that did not complete aborted precisely, with the code of its error. -/
theorem abortIsPrecise : Obligations.AbortIsPrecise := by
  intro s t w rest hp h hfail
  obtain ⟨t', ht', hend⟩ := step_commandWrite_completedOrAborted hp
  cases ht'.symm.trans h
  obtain ⟨err, ns, nt, habort⟩ := hend.resolve_left hfail
  obtain ⟨-, hmin, hmax⟩ := errWord_toNat err
  exact ⟨errCode err, ns, nt, hmin, hmax, habort⟩

end Sys2Proof.Machine
end

section
/-! Proofs about 70_reset_and_hazards.md: the reset input (R260, R261). -/

namespace Sys2Proof.Machine

/-- The step at the reset input takes it from the pending inputs and resets the block. -/
theorem step_resetInput {s : State} {rest : List HostInput} (hp : s.pending = .reset :: rest) :
    step s = .next (resetBlock { s with pending := rest }) := by
  rw [step_of_pending hp, perform]

/-- Settles O2: what the step at the reset input does, with `resetBlock` written out. -/
theorem resetInputRestoresResetState : Obligations.ResetInputRestoresResetState := by
  intro s rest hp
  rw [step_resetInput hp, resetBlock]

end Sys2Proof.Machine
end
